-- ==== Sys2Proof/Word.lean ====
section
/-! DEFINITION. Word types of the core: 32-bit words, bytes, 5-bit register numbers, reorder-buffer tags and
the byte-cell memory (00_scope.md R7, R10; 10_state.md R28; 20_memory.md R60). -/

namespace Sys2Proof

/-- Every register, operand, result, address and pc (R7: XLEN = 32). -/
abbrev Word := BitVec 32

/-- One byte of memory (R60). -/
abbrev Byte := BitVec 8

/-- A register number, 0 to 31: a 5-bit field of an instruction (R92). -/
abbrev Reg := BitVec 5

/-- The identity of one reorder-buffer entry. 0 means "ready, value present" (R28). -/
abbrev Tag := Nat

/-- Memory as a list of (address, byte) cells, addresses strictly rising, no byte 0 listed: a byte that is not
listed reads as 0 (20_memory.md R60; DESIGN CHOICE, log entry 5). -/
abbrev Memory := List Host.Cell

/-- The integer register file, x0 to x31 (10_state.md R20). -/
abbrev RegFile := Vector Word 32

end Sys2Proof
end

