-- ==== Sys2Proof/Config.lean ====
section
/-! DEFINITION. What an implementation or a launch fixes (00_scope.md R8, R9; 92_eei_decisions.md, open
parameters), as plain data, and the free values: opaque constants with no body, of which nothing can be proved
but what holds for every value. -/

namespace Sys2Proof

/-- The four division instructions, as the info of a DivFault and the argument of the host's division (R250). -/
inductive DivOp where
  | div | divu | rem | remu
deriving DecidableEq, Repr

/-- What a misaligned access does (R64). -/
inductive MisalignedPolicy where
  | fault
  | bytewise
deriving DecidableEq, Repr

/-- What a division corner case does (R250): a fault, the unknown host's values, or the RISC-V values, which the
spec calls one admissible host function. -/
inductive DivCorner where
  | fault
  | host
  | riscv
deriving DecidableEq, Repr

/-- What a load does when the matching older store is narrower (R277). -/
inductive FwdWider where
  | fault
  | raw
deriving DecidableEq, Repr

/-- A mapped address range, both ends included (R62). -/
structure MappedRange where
  lo : Word
  hi : Word
deriving DecidableEq, Repr

/-- The branch-prediction policy (R330). `static true` is the base always-taken policy; `twoBit init` is the
variant of R332 with initial counter `init`; `injected` is any other policy (log entry 10). -/
inductive Predictor where
  | static (taken : Bool)
  | twoBit (init : Fin 4)
  | injected
deriving DecidableEq, Repr

/-- The predictor's state: pairs of a table index and a 2-bit counter (R38, R332). -/
abbrev PredState := List (Nat × Fin 4)

/-- Which system-call dispatcher answers (R410): the unknown one, a free value, or (`sample`) the example dispatcher S_ex of
95_test_vectors.md section 0, kept so that the spec's vectors can be run. -/
inductive Dispatcher where
  | host
  | sample
deriving DecidableEq, Repr

/-- The dispatcher's answer (R410, R411). `resume` (the spec's Continue) carries the value of x10 and the bytes it writes to memory;
`memFault` is a memory error of the dispatcher's own access (R402). -/
inductive SyscallAnswer where
  | resume (value : Word) (writes : List (Word × Byte))
  | exit (code : Word)
  | unimplemented (number : Word)
  | memFault (addr : Word)
deriving DecidableEq, Repr, Inhabited

/-- The parameters of R8 and R9. The model takes them as arguments; they travel in the state, and no step changes
them (log entry 1). -/
structure Config where
  mulLat : Nat
  divLat : Nat
  cacheLat : Nat
  scSuccess : Word
  misaligned : MisalignedPolicy
  divCorner : DivCorner
  fwdWider : FwdWider
  mapped : List MappedRange
  predictor : Predictor
  dispatcher : Dispatcher
deriving DecidableEq, Repr

/-- The constraints R8 puts on the latencies. -/
abbrev Config.wf (c : Config) : Prop :=
  1 ≤ c.mulLat ∧ c.mulLat < c.divLat ∧ 1 ≤ c.cacheLat

/-- FREE VALUE. The host's native division on a corner case (R250, DIV_CORNER = host f; log entry 9). -/
opaque Config.hostDivision : DivOp → Word → Word → Word

/-- FREE VALUE. The system-call dispatcher's answer from the register file, memory and clock (R410; log entry 8). -/
opaque Config.syscall : RegFile → Memory → Nat → SyscallAnswer

/-- FREE VALUE. The index function of the 2-bit predictor (R332; log entry 10). -/
opaque Config.branchIndex : Word → Nat

/-- FREE VALUE. An injected policy's initial state (R330; log entry 10). -/
opaque Config.injectedInit : PredState

/-- FREE VALUE. An injected policy's prediction (R330; log entry 10). -/
opaque Config.injectedPredict : PredState → Word → Bool

/-- FREE VALUE. An injected policy's update with the actual outcome (R330; log entry 10). -/
opaque Config.injectedUpdate : PredState → Word → Bool → PredState

/-- The initial predictor state of a policy (R38, R45). -/
def Predictor.initial : Predictor → PredState
  | .static _ => []
  | .twoBit _ => []
  | .injected => Config.injectedInit

/-- The parameter values State.reset uses: the spec's defaults where it has one (92_eei_decisions.md), its example
latencies (95_test_vectors.md section 0), every address mapped, and the free dispatcher (log entries 2, 6, 7, 8). -/
def Config.atReset : Config where
  mulLat := 3
  divLat := 10
  cacheLat := 2
  scSuccess := 0
  misaligned := .fault
  divCorner := .fault
  fwdWider := .fault
  mapped := [⟨0x00000000#32, 0xffffffff#32⟩]
  predictor := .static true
  dispatcher := .host

end Sys2Proof
end

