-- ==== Sys2Proof/Syntax.lean ====
section
/-! DEFINITION. The instructions of spec/opcode_table.json, one constructor a row, with the operands that the
row's encoding holds. -/

namespace Sys2Proof

/-- The instructions (30_encoding.md R97). `rd`, `rs1`, `rs2`, `rs3` are register numbers. An `imm` of type Word is
the immediate as R95 delivers it: assembled and extended. Fields that no rule reads (R94: aq, rl, the FENCE fields,
rm, every operand of a suppressed or refused row) are kept as raw bits, so that no bit of a word is lost. -/
inductive Instr where
  -- Register-register operations, format R, opcode OP (41_alu.md R172 to R181).
  | add (rd rs1 rs2 : Reg)
  | sub (rd rs1 rs2 : Reg)
  | sll (rd rs1 rs2 : Reg)
  | slt (rd rs1 rs2 : Reg)
  | sltu (rd rs1 rs2 : Reg)
  | xor (rd rs1 rs2 : Reg)
  | srl (rd rs1 rs2 : Reg)
  | sra (rd rs1 rs2 : Reg)
  | or (rd rs1 rs2 : Reg)
  | and (rd rs1 rs2 : Reg)
  -- Register-immediate operations, format I, opcode OP-IMM (R182 to R190).
  | addi (rd rs1 : Reg) (imm : Word)
  | slti (rd rs1 : Reg) (imm : Word)
  | sltiu (rd rs1 : Reg) (imm : Word)
  | xori (rd rs1 : Reg) (imm : Word)
  | ori (rd rs1 : Reg) (imm : Word)
  | andi (rd rs1 : Reg) (imm : Word)
  | slli (rd rs1 : Reg) (shamt : BitVec 5)
  | srli (rd rs1 : Reg) (shamt : BitVec 5)
  | srai (rd rs1 : Reg) (shamt : BitVec 5)
  -- Upper-immediate operations and jumps (R191 to R194).
  | lui (rd : Reg) (imm : Word)
  | auipc (rd : Reg) (imm : Word)
  | jal (rd : Reg) (imm : Word)
  | jalr (rd rs1 : Reg) (imm : Word)
  -- Conditional branches, format B (R195 to R200).
  | beq (rs1 rs2 : Reg) (imm : Word)
  | bne (rs1 rs2 : Reg) (imm : Word)
  | blt (rs1 rs2 : Reg) (imm : Word)
  | bge (rs1 rs2 : Reg) (imm : Word)
  | bltu (rs1 rs2 : Reg) (imm : Word)
  | bgeu (rs1 rs2 : Reg) (imm : Word)
  -- System instructions: ECALL runs (R201); the other seven are refused at decode (30_encoding.md R121).
  | ecall
  | ebreak
  | csrrw (rd src : Reg) (csr : BitVec 12)
  | csrrs (rd src : Reg) (csr : BitVec 12)
  | csrrc (rd src : Reg) (csr : BitVec 12)
  | csrrwi (rd src : Reg) (csr : BitVec 12)
  | csrrsi (rd src : Reg) (csr : BitVec 12)
  | csrrci (rd src : Reg) (csr : BitVec 12)
  -- Fences (R230, R231).
  | fence (rd rs1 : Reg) (fm pred succ : BitVec 4)
  | fenceI (rd rs1 : Reg) (imm : BitVec 12)
  -- Multiply, divide, remainder (42_muldiv.md R242 to R249).
  | mul (rd rs1 rs2 : Reg)
  | mulh (rd rs1 rs2 : Reg)
  | mulhsu (rd rs1 rs2 : Reg)
  | mulhu (rd rs1 rs2 : Reg)
  | div (rd rs1 rs2 : Reg)
  | divu (rd rs1 rs2 : Reg)
  | rem (rd rs1 rs2 : Reg)
  | remu (rd rs1 rs2 : Reg)
  -- Loads (43_load_store_amo.md R283 to R287).
  | lb (rd rs1 : Reg) (imm : Word)
  | lh (rd rs1 : Reg) (imm : Word)
  | lw (rd rs1 : Reg) (imm : Word)
  | lbu (rd rs1 : Reg) (imm : Word)
  | lhu (rd rs1 : Reg) (imm : Word)
  -- Stores (R288 to R290).
  | sb (rs1 rs2 : Reg) (imm : Word)
  | sh (rs1 rs2 : Reg) (imm : Word)
  | sw (rs1 rs2 : Reg) (imm : Word)
  -- Atomics (R291 to R301).
  | lrW (rd rs1 : Reg) (aq rl : BitVec 1)
  | scW (rd rs1 rs2 : Reg) (aq rl : BitVec 1)
  | amoswapW (rd rs1 rs2 : Reg) (aq rl : BitVec 1)
  | amoaddW (rd rs1 rs2 : Reg) (aq rl : BitVec 1)
  | amoxorW (rd rs1 rs2 : Reg) (aq rl : BitVec 1)
  | amoandW (rd rs1 rs2 : Reg) (aq rl : BitVec 1)
  | amoorW (rd rs1 rs2 : Reg) (aq rl : BitVec 1)
  | amominW (rd rs1 rs2 : Reg) (aq rl : BitVec 1)
  | amomaxW (rd rs1 rs2 : Reg) (aq rl : BitVec 1)
  | amominuW (rd rs1 rs2 : Reg) (aq rl : BitVec 1)
  | amomaxuW (rd rs1 rs2 : Reg) (aq rl : BitVec 1)
  -- RV32F, suppressed to the internal NOP at fetch (41_alu.md R202 to R227, R232).
  | flw (rd rs1 : Reg) (imm : BitVec 12)
  | fsw (rs1 rs2 : Reg) (imm : BitVec 12)
  | fmaddS (rd rs1 rs2 rs3 : Reg) (rm : BitVec 3)
  | fmsubS (rd rs1 rs2 rs3 : Reg) (rm : BitVec 3)
  | fnmsubS (rd rs1 rs2 rs3 : Reg) (rm : BitVec 3)
  | fnmaddS (rd rs1 rs2 rs3 : Reg) (rm : BitVec 3)
  | faddS (rd rs1 rs2 : Reg) (rm : BitVec 3)
  | fsubS (rd rs1 rs2 : Reg) (rm : BitVec 3)
  | fmulS (rd rs1 rs2 : Reg) (rm : BitVec 3)
  | fdivS (rd rs1 rs2 : Reg) (rm : BitVec 3)
  | fsqrtS (rd rs1 : Reg) (rm : BitVec 3)
  | fsgnjS (rd rs1 rs2 : Reg)
  | fsgnjnS (rd rs1 rs2 : Reg)
  | fsgnjxS (rd rs1 rs2 : Reg)
  | fminS (rd rs1 rs2 : Reg)
  | fmaxS (rd rs1 rs2 : Reg)
  | fcvtWS (rd rs1 : Reg) (rm : BitVec 3)
  | fcvtWuS (rd rs1 : Reg) (rm : BitVec 3)
  | fmvXW (rd rs1 : Reg)
  | feqS (rd rs1 rs2 : Reg)
  | fltS (rd rs1 rs2 : Reg)
  | fleS (rd rs1 rs2 : Reg)
  | fclassS (rd rs1 : Reg)
  | fcvtSW (rd rs1 : Reg) (rm : BitVec 3)
  | fcvtSWu (rd rs1 : Reg) (rm : BitVec 3)
  | fmvWX (rd rs1 : Reg)
deriving DecidableEq, Repr

/-- What a decoded record names (10_state.md R29): an instruction of the table, or the internal NOP that a
suppressed instruction becomes (41_alu.md R232). -/
inductive Op where
  | ins (i : Instr)
  | nop
deriving DecidableEq, Repr

/-- The widths of a data access: 1, 2 or 4 bytes (20_memory.md R65). -/
inductive Width where
  | byte | half | word
deriving DecidableEq, Repr

end Sys2Proof
end

