-- ==== Sys2Proof/Decode.lean ====
section
/-! DEFINITION. The decoder (30_encoding.md R90 to R97), total on any bytes and rejecting by name, then the
encoder written from the same tables, and the opcode table as the spec's list of masks and matches. -/

namespace Sys2Proof

/-- Why bytes are no instruction. Fetch turns a rejected word into DecodeFault (R120). -/
inductive DecodeReject where
  /-- fewer than four bytes were given -/
  | truncated
  /-- bits 1..0 are not 11: no 32-bit instruction (R91) -/
  | notThirtyTwoBits
  /-- no row of the table has this major opcode (R96, R123) -/
  | unknownOpcode (opcode : BitVec 7)
  /-- the major opcode is known, the function fields name no row (R120) -/
  | unknownFunction (word : Word)
deriving DecidableEq, Repr

/-! ### Fields (R92) -/

def opcodeOf (w : Word) : BitVec 7 := w.extractLsb' 0 7
def rdOf (w : Word) : Reg := w.extractLsb' 7 5
def funct3Of (w : Word) : BitVec 3 := w.extractLsb' 12 3
def rs1Of (w : Word) : Reg := w.extractLsb' 15 5
def rs2Of (w : Word) : Reg := w.extractLsb' 20 5
def funct7Of (w : Word) : BitVec 7 := w.extractLsb' 25 7
/-- imm[11:0] of the I format, and the csr number of a CSR word. -/
def imm12Of (w : Word) : BitVec 12 := w.extractLsb' 20 12
/-- funct5 of the AMO format; rs3 of the R4 format. -/
def funct5Of (w : Word) : BitVec 5 := w.extractLsb' 27 5
def aqOf (w : Word) : BitVec 1 := w.extractLsb' 26 1
def rlOf (w : Word) : BitVec 1 := w.extractLsb' 25 1
/-- fmt of the R4 format. -/
def fmtOf (w : Word) : BitVec 2 := w.extractLsb' 25 2
/-- imm[11:0] of the S format. -/
def imm12SOf (w : Word) : BitVec 12 := w.extractLsb' 25 7 ++ w.extractLsb' 7 5
/-- fm, pred and succ of FENCE: bits 31..28, 27..24 and 23..20. -/
def fmOf (w : Word) : BitVec 4 := w.extractLsb' 28 4
def predOf (w : Word) : BitVec 4 := w.extractLsb' 24 4
def succOf (w : Word) : BitVec 4 := w.extractLsb' 20 4

/-! ### Immediates (R95) -/

def immI (w : Word) : Word := (imm12Of w).signExtend 32
def immS (w : Word) : Word := (imm12SOf w).signExtend 32
def immB (w : Word) : Word :=
  (w.extractLsb' 31 1 ++ w.extractLsb' 7 1 ++ w.extractLsb' 25 6 ++ w.extractLsb' 8 4 ++ 0#1).signExtend 32
def immU (w : Word) : Word := w.extractLsb' 12 20 ++ 0#12
def immJ (w : Word) : Word :=
  (w.extractLsb' 31 1 ++ w.extractLsb' 12 8 ++ w.extractLsb' 20 1 ++ w.extractLsb' 21 10 ++ 0#1).signExtend 32

/-! ### The decoder, one function a major opcode (R96, R97) -/

def decodeOp (w : Word) : Option Instr :=
  if funct3Of w = 0#3 ∧ funct7Of w = 0x00#7 then some (.add (rdOf w) (rs1Of w) (rs2Of w))
  else if funct3Of w = 0#3 ∧ funct7Of w = 0x20#7 then some (.sub (rdOf w) (rs1Of w) (rs2Of w))
  else if funct3Of w = 1#3 ∧ funct7Of w = 0x00#7 then some (.sll (rdOf w) (rs1Of w) (rs2Of w))
  else if funct3Of w = 2#3 ∧ funct7Of w = 0x00#7 then some (.slt (rdOf w) (rs1Of w) (rs2Of w))
  else if funct3Of w = 3#3 ∧ funct7Of w = 0x00#7 then some (.sltu (rdOf w) (rs1Of w) (rs2Of w))
  else if funct3Of w = 4#3 ∧ funct7Of w = 0x00#7 then some (.xor (rdOf w) (rs1Of w) (rs2Of w))
  else if funct3Of w = 5#3 ∧ funct7Of w = 0x00#7 then some (.srl (rdOf w) (rs1Of w) (rs2Of w))
  else if funct3Of w = 5#3 ∧ funct7Of w = 0x20#7 then some (.sra (rdOf w) (rs1Of w) (rs2Of w))
  else if funct3Of w = 6#3 ∧ funct7Of w = 0x00#7 then some (.or (rdOf w) (rs1Of w) (rs2Of w))
  else if funct3Of w = 7#3 ∧ funct7Of w = 0x00#7 then some (.and (rdOf w) (rs1Of w) (rs2Of w))
  else if funct3Of w = 0#3 ∧ funct7Of w = 0x01#7 then some (.mul (rdOf w) (rs1Of w) (rs2Of w))
  else if funct3Of w = 1#3 ∧ funct7Of w = 0x01#7 then some (.mulh (rdOf w) (rs1Of w) (rs2Of w))
  else if funct3Of w = 2#3 ∧ funct7Of w = 0x01#7 then some (.mulhsu (rdOf w) (rs1Of w) (rs2Of w))
  else if funct3Of w = 3#3 ∧ funct7Of w = 0x01#7 then some (.mulhu (rdOf w) (rs1Of w) (rs2Of w))
  else if funct3Of w = 4#3 ∧ funct7Of w = 0x01#7 then some (.div (rdOf w) (rs1Of w) (rs2Of w))
  else if funct3Of w = 5#3 ∧ funct7Of w = 0x01#7 then some (.divu (rdOf w) (rs1Of w) (rs2Of w))
  else if funct3Of w = 6#3 ∧ funct7Of w = 0x01#7 then some (.rem (rdOf w) (rs1Of w) (rs2Of w))
  else if funct3Of w = 7#3 ∧ funct7Of w = 0x01#7 then some (.remu (rdOf w) (rs1Of w) (rs2Of w))
  else none

def decodeOpImm (w : Word) : Option Instr :=
  if funct3Of w = 0#3 then some (.addi (rdOf w) (rs1Of w) (immI w))
  else if funct3Of w = 2#3 then some (.slti (rdOf w) (rs1Of w) (immI w))
  else if funct3Of w = 3#3 then some (.sltiu (rdOf w) (rs1Of w) (immI w))
  else if funct3Of w = 4#3 then some (.xori (rdOf w) (rs1Of w) (immI w))
  else if funct3Of w = 6#3 then some (.ori (rdOf w) (rs1Of w) (immI w))
  else if funct3Of w = 7#3 then some (.andi (rdOf w) (rs1Of w) (immI w))
  else if funct3Of w = 1#3 ∧ funct7Of w = 0x00#7 then some (.slli (rdOf w) (rs1Of w) (rs2Of w))
  else if funct3Of w = 5#3 ∧ funct7Of w = 0x00#7 then some (.srli (rdOf w) (rs1Of w) (rs2Of w))
  else if funct3Of w = 5#3 ∧ funct7Of w = 0x20#7 then some (.srai (rdOf w) (rs1Of w) (rs2Of w))
  else none

def decodeLui (w : Word) : Option Instr :=
  some (.lui (rdOf w) (immU w))

def decodeAuipc (w : Word) : Option Instr :=
  some (.auipc (rdOf w) (immU w))

def decodeJal (w : Word) : Option Instr :=
  some (.jal (rdOf w) (immJ w))

def decodeJalr (w : Word) : Option Instr :=
  if funct3Of w = 0#3 then some (.jalr (rdOf w) (rs1Of w) (immI w))
  else none

def decodeBranch (w : Word) : Option Instr :=
  if funct3Of w = 0#3 then some (.beq (rs1Of w) (rs2Of w) (immB w))
  else if funct3Of w = 1#3 then some (.bne (rs1Of w) (rs2Of w) (immB w))
  else if funct3Of w = 4#3 then some (.blt (rs1Of w) (rs2Of w) (immB w))
  else if funct3Of w = 5#3 then some (.bge (rs1Of w) (rs2Of w) (immB w))
  else if funct3Of w = 6#3 then some (.bltu (rs1Of w) (rs2Of w) (immB w))
  else if funct3Of w = 7#3 then some (.bgeu (rs1Of w) (rs2Of w) (immB w))
  else none

def decodeSystem (w : Word) : Option Instr :=
  if w = 0x00000073#32 then some .ecall
  else if w = 0x00100073#32 then some .ebreak
  else if funct3Of w = 1#3 then some (.csrrw (rdOf w) (rs1Of w) (imm12Of w))
  else if funct3Of w = 2#3 then some (.csrrs (rdOf w) (rs1Of w) (imm12Of w))
  else if funct3Of w = 3#3 then some (.csrrc (rdOf w) (rs1Of w) (imm12Of w))
  else if funct3Of w = 5#3 then some (.csrrwi (rdOf w) (rs1Of w) (imm12Of w))
  else if funct3Of w = 6#3 then some (.csrrsi (rdOf w) (rs1Of w) (imm12Of w))
  else if funct3Of w = 7#3 then some (.csrrci (rdOf w) (rs1Of w) (imm12Of w))
  else none

def decodeMiscMem (w : Word) : Option Instr :=
  if funct3Of w = 0#3 then some (.fence (rdOf w) (rs1Of w) (fmOf w) (predOf w) (succOf w))
  else if funct3Of w = 1#3 then some (.fenceI (rdOf w) (rs1Of w) (imm12Of w))
  else none

def decodeLoad (w : Word) : Option Instr :=
  if funct3Of w = 0#3 then some (.lb (rdOf w) (rs1Of w) (immI w))
  else if funct3Of w = 1#3 then some (.lh (rdOf w) (rs1Of w) (immI w))
  else if funct3Of w = 2#3 then some (.lw (rdOf w) (rs1Of w) (immI w))
  else if funct3Of w = 4#3 then some (.lbu (rdOf w) (rs1Of w) (immI w))
  else if funct3Of w = 5#3 then some (.lhu (rdOf w) (rs1Of w) (immI w))
  else none

def decodeStore (w : Word) : Option Instr :=
  if funct3Of w = 0#3 then some (.sb (rs1Of w) (rs2Of w) (immS w))
  else if funct3Of w = 1#3 then some (.sh (rs1Of w) (rs2Of w) (immS w))
  else if funct3Of w = 2#3 then some (.sw (rs1Of w) (rs2Of w) (immS w))
  else none

def decodeAmo (w : Word) : Option Instr :=
  if funct3Of w = 2#3 ∧ funct5Of w = 0x02#5 ∧ rs2Of w = 0#5 then some (.lrW (rdOf w) (rs1Of w) (aqOf w) (rlOf w))
  else if funct3Of w = 2#3 ∧ funct5Of w = 0x03#5 then some (.scW (rdOf w) (rs1Of w) (rs2Of w) (aqOf w) (rlOf w))
  else if funct3Of w = 2#3 ∧ funct5Of w = 0x01#5 then some (.amoswapW (rdOf w) (rs1Of w) (rs2Of w) (aqOf w) (rlOf w))
  else if funct3Of w = 2#3 ∧ funct5Of w = 0x00#5 then some (.amoaddW (rdOf w) (rs1Of w) (rs2Of w) (aqOf w) (rlOf w))
  else if funct3Of w = 2#3 ∧ funct5Of w = 0x04#5 then some (.amoxorW (rdOf w) (rs1Of w) (rs2Of w) (aqOf w) (rlOf w))
  else if funct3Of w = 2#3 ∧ funct5Of w = 0x0c#5 then some (.amoandW (rdOf w) (rs1Of w) (rs2Of w) (aqOf w) (rlOf w))
  else if funct3Of w = 2#3 ∧ funct5Of w = 0x08#5 then some (.amoorW (rdOf w) (rs1Of w) (rs2Of w) (aqOf w) (rlOf w))
  else if funct3Of w = 2#3 ∧ funct5Of w = 0x10#5 then some (.amominW (rdOf w) (rs1Of w) (rs2Of w) (aqOf w) (rlOf w))
  else if funct3Of w = 2#3 ∧ funct5Of w = 0x14#5 then some (.amomaxW (rdOf w) (rs1Of w) (rs2Of w) (aqOf w) (rlOf w))
  else if funct3Of w = 2#3 ∧ funct5Of w = 0x18#5 then some (.amominuW (rdOf w) (rs1Of w) (rs2Of w) (aqOf w) (rlOf w))
  else if funct3Of w = 2#3 ∧ funct5Of w = 0x1c#5 then some (.amomaxuW (rdOf w) (rs1Of w) (rs2Of w) (aqOf w) (rlOf w))
  else none

def decodeLoadFp (w : Word) : Option Instr :=
  if funct3Of w = 2#3 then some (.flw (rdOf w) (rs1Of w) (imm12Of w))
  else none

def decodeStoreFp (w : Word) : Option Instr :=
  if funct3Of w = 2#3 then some (.fsw (rs1Of w) (rs2Of w) (imm12SOf w))
  else none

def decodeMadd (w : Word) : Option Instr :=
  if fmtOf w = 0#2 then some (.fmaddS (rdOf w) (rs1Of w) (rs2Of w) (funct5Of w) (funct3Of w))
  else none

def decodeMsub (w : Word) : Option Instr :=
  if fmtOf w = 0#2 then some (.fmsubS (rdOf w) (rs1Of w) (rs2Of w) (funct5Of w) (funct3Of w))
  else none

def decodeNmsub (w : Word) : Option Instr :=
  if fmtOf w = 0#2 then some (.fnmsubS (rdOf w) (rs1Of w) (rs2Of w) (funct5Of w) (funct3Of w))
  else none

def decodeNmadd (w : Word) : Option Instr :=
  if fmtOf w = 0#2 then some (.fnmaddS (rdOf w) (rs1Of w) (rs2Of w) (funct5Of w) (funct3Of w))
  else none

def decodeOpFp (w : Word) : Option Instr :=
  if funct7Of w = 0x00#7 then some (.faddS (rdOf w) (rs1Of w) (rs2Of w) (funct3Of w))
  else if funct7Of w = 0x04#7 then some (.fsubS (rdOf w) (rs1Of w) (rs2Of w) (funct3Of w))
  else if funct7Of w = 0x08#7 then some (.fmulS (rdOf w) (rs1Of w) (rs2Of w) (funct3Of w))
  else if funct7Of w = 0x0c#7 then some (.fdivS (rdOf w) (rs1Of w) (rs2Of w) (funct3Of w))
  else if funct7Of w = 0x2c#7 ∧ rs2Of w = 0#5 then some (.fsqrtS (rdOf w) (rs1Of w) (funct3Of w))
  else if funct3Of w = 0#3 ∧ funct7Of w = 0x10#7 then some (.fsgnjS (rdOf w) (rs1Of w) (rs2Of w))
  else if funct3Of w = 1#3 ∧ funct7Of w = 0x10#7 then some (.fsgnjnS (rdOf w) (rs1Of w) (rs2Of w))
  else if funct3Of w = 2#3 ∧ funct7Of w = 0x10#7 then some (.fsgnjxS (rdOf w) (rs1Of w) (rs2Of w))
  else if funct3Of w = 0#3 ∧ funct7Of w = 0x14#7 then some (.fminS (rdOf w) (rs1Of w) (rs2Of w))
  else if funct3Of w = 1#3 ∧ funct7Of w = 0x14#7 then some (.fmaxS (rdOf w) (rs1Of w) (rs2Of w))
  else if funct7Of w = 0x60#7 ∧ rs2Of w = 0#5 then some (.fcvtWS (rdOf w) (rs1Of w) (funct3Of w))
  else if funct7Of w = 0x60#7 ∧ rs2Of w = 1#5 then some (.fcvtWuS (rdOf w) (rs1Of w) (funct3Of w))
  else if funct3Of w = 0#3 ∧ funct7Of w = 0x70#7 ∧ rs2Of w = 0#5 then some (.fmvXW (rdOf w) (rs1Of w))
  else if funct3Of w = 2#3 ∧ funct7Of w = 0x50#7 then some (.feqS (rdOf w) (rs1Of w) (rs2Of w))
  else if funct3Of w = 1#3 ∧ funct7Of w = 0x50#7 then some (.fltS (rdOf w) (rs1Of w) (rs2Of w))
  else if funct3Of w = 0#3 ∧ funct7Of w = 0x50#7 then some (.fleS (rdOf w) (rs1Of w) (rs2Of w))
  else if funct3Of w = 1#3 ∧ funct7Of w = 0x70#7 ∧ rs2Of w = 0#5 then some (.fclassS (rdOf w) (rs1Of w))
  else if funct7Of w = 0x68#7 ∧ rs2Of w = 0#5 then some (.fcvtSW (rdOf w) (rs1Of w) (funct3Of w))
  else if funct7Of w = 0x68#7 ∧ rs2Of w = 1#5 then some (.fcvtSWu (rdOf w) (rs1Of w) (funct3Of w))
  else if funct3Of w = 0#3 ∧ funct7Of w = 0x78#7 ∧ rs2Of w = 0#5 then some (.fmvWX (rdOf w) (rs1Of w))
  else none

/-- The rows of one major opcode (R96); none where the table has no such opcode. -/
def decodeMajor (w : Word) : Option (Option Instr) :=
  if opcodeOf w = 0x33#7 then some (decodeOp w)
  else if opcodeOf w = 0x13#7 then some (decodeOpImm w)
  else if opcodeOf w = 0x37#7 then some (decodeLui w)
  else if opcodeOf w = 0x17#7 then some (decodeAuipc w)
  else if opcodeOf w = 0x6f#7 then some (decodeJal w)
  else if opcodeOf w = 0x67#7 then some (decodeJalr w)
  else if opcodeOf w = 0x63#7 then some (decodeBranch w)
  else if opcodeOf w = 0x73#7 then some (decodeSystem w)
  else if opcodeOf w = 0x0f#7 then some (decodeMiscMem w)
  else if opcodeOf w = 0x03#7 then some (decodeLoad w)
  else if opcodeOf w = 0x23#7 then some (decodeStore w)
  else if opcodeOf w = 0x2f#7 then some (decodeAmo w)
  else if opcodeOf w = 0x07#7 then some (decodeLoadFp w)
  else if opcodeOf w = 0x27#7 then some (decodeStoreFp w)
  else if opcodeOf w = 0x43#7 then some (decodeMadd w)
  else if opcodeOf w = 0x47#7 then some (decodeMsub w)
  else if opcodeOf w = 0x4b#7 then some (decodeNmsub w)
  else if opcodeOf w = 0x4f#7 then some (decodeNmadd w)
  else if opcodeOf w = 0x53#7 then some (decodeOpFp w)
  else none

/-- The decoder on one 32-bit word (R90). The seven refused rows are named too: R121 lists them so that a decoder
can, and their meanings raise the DecodeFault. -/
def decodeWord (w : Word) : Except DecodeReject Instr :=
  if w.extractLsb' 0 2 ≠ 3#2 then .error .notThirtyTwoBits
  else match decodeMajor w with
    | none => .error (.unknownOpcode (opcodeOf w))
    | some none => .error (.unknownFunction w)
    | some (some i) => .ok i

/-- Four bytes, the one at the lowest address first, as a little-endian word (20_memory.md R63). -/
def wordOfBytes (b0 b1 b2 b3 : Byte) : Word := b3 ++ b2 ++ b1 ++ b0

/-- The little-endian bytes of a word, the one at the lowest address first (R63). -/
def bytesOfWord (w : Word) : List Byte :=
  [w.extractLsb' 0 8, w.extractLsb' 8 8, w.extractLsb' 16 8, w.extractLsb' 24 8]

/-- The decoder on bytes: the instruction and the bytes after it (R91: every instruction is four bytes). -/
def decode : List Byte → Except DecodeReject (Instr × List Byte)
  | b0 :: b1 :: b2 :: b3 :: rest => (decodeWord (wordOfBytes b0 b1 b2 b3)).map (·, rest)
  | _ => .error .truncated

/-- The instruction that the decoder reads from the low `nbits` bits of `w`, the bits above being 0. -/
def decodeTableWord (nbits w : Nat) : Option Instr :=
  match decode (bytesOfWord (BitVec.ofNat 32 (w % 2 ^ nbits))) with
  | .ok (i, _) => some i
  | .error _ => none

/-! ### The encoder (R92, R95) -/

def encR (funct7 : BitVec 7) (rs2 rs1 : Reg) (funct3 : BitVec 3) (rd : Reg) (opcode : BitVec 7) : Word :=
  funct7 ++ rs2 ++ rs1 ++ funct3 ++ rd ++ opcode

def encI (imm : BitVec 12) (rs1 : Reg) (funct3 : BitVec 3) (rd : Reg) (opcode : BitVec 7) : Word :=
  imm ++ rs1 ++ funct3 ++ rd ++ opcode

def encS (imm : BitVec 12) (rs2 rs1 : Reg) (funct3 : BitVec 3) (opcode : BitVec 7) : Word :=
  imm.extractLsb' 5 7 ++ rs2 ++ rs1 ++ funct3 ++ imm.extractLsb' 0 5 ++ opcode

def encB (imm : Word) (rs2 rs1 : Reg) (funct3 : BitVec 3) (opcode : BitVec 7) : Word :=
  imm.extractLsb' 12 1 ++ imm.extractLsb' 5 6 ++ rs2 ++ rs1 ++ funct3 ++ imm.extractLsb' 1 4 ++
    imm.extractLsb' 11 1 ++ opcode

def encU (imm : Word) (rd : Reg) (opcode : BitVec 7) : Word := imm.extractLsb' 12 20 ++ rd ++ opcode

def encJ (imm : Word) (rd : Reg) (opcode : BitVec 7) : Word :=
  imm.extractLsb' 20 1 ++ imm.extractLsb' 1 10 ++ imm.extractLsb' 11 1 ++ imm.extractLsb' 12 8 ++ rd ++ opcode

/-- The AMO format: funct7 split into funct5, aq, rl. -/
def encAmo (funct5 : BitVec 5) (aq rl : BitVec 1) (rs2 rs1 rd : Reg) : Word :=
  funct5 ++ aq ++ rl ++ rs2 ++ rs1 ++ 2#3 ++ rd ++ 0x2f#7

/-- The R4 format, fmt 00. -/
def encR4 (rs3 rs2 rs1 : Reg) (rm : BitVec 3) (rd : Reg) (opcode : BitVec 7) : Word :=
  rs3 ++ 0#2 ++ rs2 ++ rs1 ++ rm ++ rd ++ opcode

/-- The word of an instruction (R97). -/
def encode : Instr → Word
  | .add rd rs1 rs2 => encR 0x00#7 rs2 rs1 0#3 rd 0x33#7
  | .sub rd rs1 rs2 => encR 0x20#7 rs2 rs1 0#3 rd 0x33#7
  | .sll rd rs1 rs2 => encR 0x00#7 rs2 rs1 1#3 rd 0x33#7
  | .slt rd rs1 rs2 => encR 0x00#7 rs2 rs1 2#3 rd 0x33#7
  | .sltu rd rs1 rs2 => encR 0x00#7 rs2 rs1 3#3 rd 0x33#7
  | .xor rd rs1 rs2 => encR 0x00#7 rs2 rs1 4#3 rd 0x33#7
  | .srl rd rs1 rs2 => encR 0x00#7 rs2 rs1 5#3 rd 0x33#7
  | .sra rd rs1 rs2 => encR 0x20#7 rs2 rs1 5#3 rd 0x33#7
  | .or rd rs1 rs2 => encR 0x00#7 rs2 rs1 6#3 rd 0x33#7
  | .and rd rs1 rs2 => encR 0x00#7 rs2 rs1 7#3 rd 0x33#7
  | .addi rd rs1 imm => encI (imm.extractLsb' 0 12) rs1 0#3 rd 0x13#7
  | .slti rd rs1 imm => encI (imm.extractLsb' 0 12) rs1 2#3 rd 0x13#7
  | .sltiu rd rs1 imm => encI (imm.extractLsb' 0 12) rs1 3#3 rd 0x13#7
  | .xori rd rs1 imm => encI (imm.extractLsb' 0 12) rs1 4#3 rd 0x13#7
  | .ori rd rs1 imm => encI (imm.extractLsb' 0 12) rs1 6#3 rd 0x13#7
  | .andi rd rs1 imm => encI (imm.extractLsb' 0 12) rs1 7#3 rd 0x13#7
  | .slli rd rs1 shamt => encR 0x00#7 shamt rs1 1#3 rd 0x13#7
  | .srli rd rs1 shamt => encR 0x00#7 shamt rs1 5#3 rd 0x13#7
  | .srai rd rs1 shamt => encR 0x20#7 shamt rs1 5#3 rd 0x13#7
  | .lui rd imm => encU imm rd 0x37#7
  | .auipc rd imm => encU imm rd 0x17#7
  | .jal rd imm => encJ imm rd 0x6f#7
  | .jalr rd rs1 imm => encI (imm.extractLsb' 0 12) rs1 0#3 rd 0x67#7
  | .beq rs1 rs2 imm => encB imm rs2 rs1 0#3 0x63#7
  | .bne rs1 rs2 imm => encB imm rs2 rs1 1#3 0x63#7
  | .blt rs1 rs2 imm => encB imm rs2 rs1 4#3 0x63#7
  | .bge rs1 rs2 imm => encB imm rs2 rs1 5#3 0x63#7
  | .bltu rs1 rs2 imm => encB imm rs2 rs1 6#3 0x63#7
  | .bgeu rs1 rs2 imm => encB imm rs2 rs1 7#3 0x63#7
  | .ecall => 0x00000073#32
  | .ebreak => 0x00100073#32
  | .csrrw rd src csr => encI csr src 1#3 rd 0x73#7
  | .csrrs rd src csr => encI csr src 2#3 rd 0x73#7
  | .csrrc rd src csr => encI csr src 3#3 rd 0x73#7
  | .csrrwi rd src csr => encI csr src 5#3 rd 0x73#7
  | .csrrsi rd src csr => encI csr src 6#3 rd 0x73#7
  | .csrrci rd src csr => encI csr src 7#3 rd 0x73#7
  | .fence rd rs1 fm pred succ => encI (fm ++ pred ++ succ) rs1 0#3 rd 0x0f#7
  | .fenceI rd rs1 imm => encI imm rs1 1#3 rd 0x0f#7
  | .mul rd rs1 rs2 => encR 0x01#7 rs2 rs1 0#3 rd 0x33#7
  | .mulh rd rs1 rs2 => encR 0x01#7 rs2 rs1 1#3 rd 0x33#7
  | .mulhsu rd rs1 rs2 => encR 0x01#7 rs2 rs1 2#3 rd 0x33#7
  | .mulhu rd rs1 rs2 => encR 0x01#7 rs2 rs1 3#3 rd 0x33#7
  | .div rd rs1 rs2 => encR 0x01#7 rs2 rs1 4#3 rd 0x33#7
  | .divu rd rs1 rs2 => encR 0x01#7 rs2 rs1 5#3 rd 0x33#7
  | .rem rd rs1 rs2 => encR 0x01#7 rs2 rs1 6#3 rd 0x33#7
  | .remu rd rs1 rs2 => encR 0x01#7 rs2 rs1 7#3 rd 0x33#7
  | .lb rd rs1 imm => encI (imm.extractLsb' 0 12) rs1 0#3 rd 0x03#7
  | .lh rd rs1 imm => encI (imm.extractLsb' 0 12) rs1 1#3 rd 0x03#7
  | .lw rd rs1 imm => encI (imm.extractLsb' 0 12) rs1 2#3 rd 0x03#7
  | .lbu rd rs1 imm => encI (imm.extractLsb' 0 12) rs1 4#3 rd 0x03#7
  | .lhu rd rs1 imm => encI (imm.extractLsb' 0 12) rs1 5#3 rd 0x03#7
  | .sb rs1 rs2 imm => encS (imm.extractLsb' 0 12) rs2 rs1 0#3 0x23#7
  | .sh rs1 rs2 imm => encS (imm.extractLsb' 0 12) rs2 rs1 1#3 0x23#7
  | .sw rs1 rs2 imm => encS (imm.extractLsb' 0 12) rs2 rs1 2#3 0x23#7
  | .lrW rd rs1 aq rl => encAmo 0x02#5 aq rl 0#5 rs1 rd
  | .scW rd rs1 rs2 aq rl => encAmo 0x03#5 aq rl rs2 rs1 rd
  | .amoswapW rd rs1 rs2 aq rl => encAmo 0x01#5 aq rl rs2 rs1 rd
  | .amoaddW rd rs1 rs2 aq rl => encAmo 0x00#5 aq rl rs2 rs1 rd
  | .amoxorW rd rs1 rs2 aq rl => encAmo 0x04#5 aq rl rs2 rs1 rd
  | .amoandW rd rs1 rs2 aq rl => encAmo 0x0c#5 aq rl rs2 rs1 rd
  | .amoorW rd rs1 rs2 aq rl => encAmo 0x08#5 aq rl rs2 rs1 rd
  | .amominW rd rs1 rs2 aq rl => encAmo 0x10#5 aq rl rs2 rs1 rd
  | .amomaxW rd rs1 rs2 aq rl => encAmo 0x14#5 aq rl rs2 rs1 rd
  | .amominuW rd rs1 rs2 aq rl => encAmo 0x18#5 aq rl rs2 rs1 rd
  | .amomaxuW rd rs1 rs2 aq rl => encAmo 0x1c#5 aq rl rs2 rs1 rd
  | .flw rd rs1 imm => encI imm rs1 2#3 rd 0x07#7
  | .fsw rs1 rs2 imm => encS imm rs2 rs1 2#3 0x27#7
  | .fmaddS rd rs1 rs2 rs3 rm => encR4 rs3 rs2 rs1 rm rd 0x43#7
  | .fmsubS rd rs1 rs2 rs3 rm => encR4 rs3 rs2 rs1 rm rd 0x47#7
  | .fnmsubS rd rs1 rs2 rs3 rm => encR4 rs3 rs2 rs1 rm rd 0x4b#7
  | .fnmaddS rd rs1 rs2 rs3 rm => encR4 rs3 rs2 rs1 rm rd 0x4f#7
  | .faddS rd rs1 rs2 rm => encR 0x00#7 rs2 rs1 rm rd 0x53#7
  | .fsubS rd rs1 rs2 rm => encR 0x04#7 rs2 rs1 rm rd 0x53#7
  | .fmulS rd rs1 rs2 rm => encR 0x08#7 rs2 rs1 rm rd 0x53#7
  | .fdivS rd rs1 rs2 rm => encR 0x0c#7 rs2 rs1 rm rd 0x53#7
  | .fsqrtS rd rs1 rm => encR 0x2c#7 0#5 rs1 rm rd 0x53#7
  | .fsgnjS rd rs1 rs2 => encR 0x10#7 rs2 rs1 0#3 rd 0x53#7
  | .fsgnjnS rd rs1 rs2 => encR 0x10#7 rs2 rs1 1#3 rd 0x53#7
  | .fsgnjxS rd rs1 rs2 => encR 0x10#7 rs2 rs1 2#3 rd 0x53#7
  | .fminS rd rs1 rs2 => encR 0x14#7 rs2 rs1 0#3 rd 0x53#7
  | .fmaxS rd rs1 rs2 => encR 0x14#7 rs2 rs1 1#3 rd 0x53#7
  | .fcvtWS rd rs1 rm => encR 0x60#7 0#5 rs1 rm rd 0x53#7
  | .fcvtWuS rd rs1 rm => encR 0x60#7 1#5 rs1 rm rd 0x53#7
  | .fmvXW rd rs1 => encR 0x70#7 0#5 rs1 0#3 rd 0x53#7
  | .feqS rd rs1 rs2 => encR 0x50#7 rs2 rs1 2#3 rd 0x53#7
  | .fltS rd rs1 rs2 => encR 0x50#7 rs2 rs1 1#3 rd 0x53#7
  | .fleS rd rs1 rs2 => encR 0x50#7 rs2 rs1 0#3 rd 0x53#7
  | .fclassS rd rs1 => encR 0x70#7 0#5 rs1 1#3 rd 0x53#7
  | .fcvtSW rd rs1 rm => encR 0x68#7 0#5 rs1 rm rd 0x53#7
  | .fcvtSWu rd rs1 rm => encR 0x68#7 1#5 rs1 rm rd 0x53#7
  | .fmvWX rd rs1 => encR 0x78#7 0#5 rs1 0#3 rd 0x53#7

/-! ### The opcode table (R97) -/

/-- One row of the table: a word is the row's when `word &&& mask = bits` (R90). -/
structure OpcodeRow where
  mnemonic : String
  bits : Word
  mask : Word
deriving DecidableEq, Repr

/-- Register-register operations, format R, opcode OP (41_alu.md R172 to R181). -/
def opcodeRows0 : List OpcodeRow :=
  [ ⟨"ADD", 0x00000033#32, 0xfe00707f#32⟩,
    ⟨"SUB", 0x40000033#32, 0xfe00707f#32⟩,
    ⟨"SLL", 0x00001033#32, 0xfe00707f#32⟩,
    ⟨"SLT", 0x00002033#32, 0xfe00707f#32⟩,
    ⟨"SLTU", 0x00003033#32, 0xfe00707f#32⟩,
    ⟨"XOR", 0x00004033#32, 0xfe00707f#32⟩,
    ⟨"SRL", 0x00005033#32, 0xfe00707f#32⟩,
    ⟨"SRA", 0x40005033#32, 0xfe00707f#32⟩,
    ⟨"OR", 0x00006033#32, 0xfe00707f#32⟩,
    ⟨"AND", 0x00007033#32, 0xfe00707f#32⟩ ]

/-- Register-immediate operations, format I, opcode OP-IMM (R182 to R190). -/
def opcodeRows1 : List OpcodeRow :=
  [ ⟨"ADDI", 0x00000013#32, 0x0000707f#32⟩,
    ⟨"SLTI", 0x00002013#32, 0x0000707f#32⟩,
    ⟨"SLTIU", 0x00003013#32, 0x0000707f#32⟩,
    ⟨"XORI", 0x00004013#32, 0x0000707f#32⟩,
    ⟨"ORI", 0x00006013#32, 0x0000707f#32⟩,
    ⟨"ANDI", 0x00007013#32, 0x0000707f#32⟩,
    ⟨"SLLI", 0x00001013#32, 0xfe00707f#32⟩,
    ⟨"SRLI", 0x00005013#32, 0xfe00707f#32⟩,
    ⟨"SRAI", 0x40005013#32, 0xfe00707f#32⟩ ]

/-- Upper-immediate operations and jumps (R191 to R194). -/
def opcodeRows2 : List OpcodeRow :=
  [ ⟨"LUI", 0x00000037#32, 0x0000007f#32⟩,
    ⟨"AUIPC", 0x00000017#32, 0x0000007f#32⟩,
    ⟨"JAL", 0x0000006f#32, 0x0000007f#32⟩,
    ⟨"JALR", 0x00000067#32, 0x0000707f#32⟩ ]

/-- Conditional branches, format B (R195 to R200). -/
def opcodeRows3 : List OpcodeRow :=
  [ ⟨"BEQ", 0x00000063#32, 0x0000707f#32⟩,
    ⟨"BNE", 0x00001063#32, 0x0000707f#32⟩,
    ⟨"BLT", 0x00004063#32, 0x0000707f#32⟩,
    ⟨"BGE", 0x00005063#32, 0x0000707f#32⟩,
    ⟨"BLTU", 0x00006063#32, 0x0000707f#32⟩,
    ⟨"BGEU", 0x00007063#32, 0x0000707f#32⟩ ]

/-- System instructions: ECALL runs (R201); the other seven are refused at decode (30_encoding.md R121). -/
def opcodeRows4 : List OpcodeRow :=
  [ ⟨"ECALL", 0x00000073#32, 0xffffffff#32⟩,
    ⟨"EBREAK", 0x00100073#32, 0xffffffff#32⟩,
    ⟨"CSRRW", 0x00001073#32, 0x0000707f#32⟩,
    ⟨"CSRRS", 0x00002073#32, 0x0000707f#32⟩,
    ⟨"CSRRC", 0x00003073#32, 0x0000707f#32⟩,
    ⟨"CSRRWI", 0x00005073#32, 0x0000707f#32⟩,
    ⟨"CSRRSI", 0x00006073#32, 0x0000707f#32⟩,
    ⟨"CSRRCI", 0x00007073#32, 0x0000707f#32⟩ ]

/-- Fences (R230, R231). -/
def opcodeRows5 : List OpcodeRow :=
  [ ⟨"FENCE", 0x0000000f#32, 0x0000707f#32⟩,
    ⟨"FENCE.I", 0x0000100f#32, 0x0000707f#32⟩ ]

/-- Multiply, divide, remainder (42_muldiv.md R242 to R249). -/
def opcodeRows6 : List OpcodeRow :=
  [ ⟨"MUL", 0x02000033#32, 0xfe00707f#32⟩,
    ⟨"MULH", 0x02001033#32, 0xfe00707f#32⟩,
    ⟨"MULHSU", 0x02002033#32, 0xfe00707f#32⟩,
    ⟨"MULHU", 0x02003033#32, 0xfe00707f#32⟩,
    ⟨"DIV", 0x02004033#32, 0xfe00707f#32⟩,
    ⟨"DIVU", 0x02005033#32, 0xfe00707f#32⟩,
    ⟨"REM", 0x02006033#32, 0xfe00707f#32⟩,
    ⟨"REMU", 0x02007033#32, 0xfe00707f#32⟩ ]

/-- Loads (43_load_store_amo.md R283 to R287). -/
def opcodeRows7 : List OpcodeRow :=
  [ ⟨"LB", 0x00000003#32, 0x0000707f#32⟩,
    ⟨"LH", 0x00001003#32, 0x0000707f#32⟩,
    ⟨"LW", 0x00002003#32, 0x0000707f#32⟩,
    ⟨"LBU", 0x00004003#32, 0x0000707f#32⟩,
    ⟨"LHU", 0x00005003#32, 0x0000707f#32⟩ ]

/-- Stores (R288 to R290). -/
def opcodeRows8 : List OpcodeRow :=
  [ ⟨"SB", 0x00000023#32, 0x0000707f#32⟩,
    ⟨"SH", 0x00001023#32, 0x0000707f#32⟩,
    ⟨"SW", 0x00002023#32, 0x0000707f#32⟩ ]

/-- Atomics (R291 to R301). -/
def opcodeRows9 : List OpcodeRow :=
  [ ⟨"LR.W", 0x1000202f#32, 0xf9f0707f#32⟩,
    ⟨"SC.W", 0x1800202f#32, 0xf800707f#32⟩,
    ⟨"AMOSWAP.W", 0x0800202f#32, 0xf800707f#32⟩,
    ⟨"AMOADD.W", 0x0000202f#32, 0xf800707f#32⟩,
    ⟨"AMOXOR.W", 0x2000202f#32, 0xf800707f#32⟩,
    ⟨"AMOAND.W", 0x6000202f#32, 0xf800707f#32⟩,
    ⟨"AMOOR.W", 0x4000202f#32, 0xf800707f#32⟩,
    ⟨"AMOMIN.W", 0x8000202f#32, 0xf800707f#32⟩,
    ⟨"AMOMAX.W", 0xa000202f#32, 0xf800707f#32⟩,
    ⟨"AMOMINU.W", 0xc000202f#32, 0xf800707f#32⟩,
    ⟨"AMOMAXU.W", 0xe000202f#32, 0xf800707f#32⟩ ]

/-- RV32F, suppressed to the internal NOP at fetch (41_alu.md R202 to R227, R232). -/
def opcodeRows10 : List OpcodeRow :=
  [ ⟨"FLW", 0x00002007#32, 0x0000707f#32⟩,
    ⟨"FSW", 0x00002027#32, 0x0000707f#32⟩,
    ⟨"FMADD.S", 0x00000043#32, 0x0600007f#32⟩,
    ⟨"FMSUB.S", 0x00000047#32, 0x0600007f#32⟩,
    ⟨"FNMSUB.S", 0x0000004b#32, 0x0600007f#32⟩,
    ⟨"FNMADD.S", 0x0000004f#32, 0x0600007f#32⟩,
    ⟨"FADD.S", 0x00000053#32, 0xfe00007f#32⟩,
    ⟨"FSUB.S", 0x08000053#32, 0xfe00007f#32⟩,
    ⟨"FMUL.S", 0x10000053#32, 0xfe00007f#32⟩,
    ⟨"FDIV.S", 0x18000053#32, 0xfe00007f#32⟩,
    ⟨"FSQRT.S", 0x58000053#32, 0xfff0007f#32⟩,
    ⟨"FSGNJ.S", 0x20000053#32, 0xfe00707f#32⟩,
    ⟨"FSGNJN.S", 0x20001053#32, 0xfe00707f#32⟩,
    ⟨"FSGNJX.S", 0x20002053#32, 0xfe00707f#32⟩,
    ⟨"FMIN.S", 0x28000053#32, 0xfe00707f#32⟩,
    ⟨"FMAX.S", 0x28001053#32, 0xfe00707f#32⟩,
    ⟨"FCVT.W.S", 0xc0000053#32, 0xfff0007f#32⟩,
    ⟨"FCVT.WU.S", 0xc0100053#32, 0xfff0007f#32⟩,
    ⟨"FMV.X.W", 0xe0000053#32, 0xfff0707f#32⟩,
    ⟨"FEQ.S", 0xa0002053#32, 0xfe00707f#32⟩,
    ⟨"FLT.S", 0xa0001053#32, 0xfe00707f#32⟩,
    ⟨"FLE.S", 0xa0000053#32, 0xfe00707f#32⟩,
    ⟨"FCLASS.S", 0xe0001053#32, 0xfff0707f#32⟩,
    ⟨"FCVT.S.W", 0xd0000053#32, 0xfff0007f#32⟩,
    ⟨"FCVT.S.WU", 0xd0100053#32, 0xfff0007f#32⟩,
    ⟨"FMV.W.X", 0xf0000053#32, 0xfff0707f#32⟩ ]

/-- All 92 rows. -/
def opcodeTable : List OpcodeRow :=
  opcodeRows0 ++ opcodeRows1 ++ opcodeRows2 ++ opcodeRows3 ++ opcodeRows4 ++ opcodeRows5 ++ opcodeRows6 ++ opcodeRows7 ++ opcodeRows8 ++ opcodeRows9 ++ opcodeRows10

/-- The mnemonic of an instruction, as spec/opcode_table.json spells it. -/
def Instr.mnemonic : Instr → String
  | .add _ _ _ => "ADD"
  | .sub _ _ _ => "SUB"
  | .sll _ _ _ => "SLL"
  | .slt _ _ _ => "SLT"
  | .sltu _ _ _ => "SLTU"
  | .xor _ _ _ => "XOR"
  | .srl _ _ _ => "SRL"
  | .sra _ _ _ => "SRA"
  | .or _ _ _ => "OR"
  | .and _ _ _ => "AND"
  | .addi _ _ _ => "ADDI"
  | .slti _ _ _ => "SLTI"
  | .sltiu _ _ _ => "SLTIU"
  | .xori _ _ _ => "XORI"
  | .ori _ _ _ => "ORI"
  | .andi _ _ _ => "ANDI"
  | .slli _ _ _ => "SLLI"
  | .srli _ _ _ => "SRLI"
  | .srai _ _ _ => "SRAI"
  | .lui _ _ => "LUI"
  | .auipc _ _ => "AUIPC"
  | .jal _ _ => "JAL"
  | .jalr _ _ _ => "JALR"
  | .beq _ _ _ => "BEQ"
  | .bne _ _ _ => "BNE"
  | .blt _ _ _ => "BLT"
  | .bge _ _ _ => "BGE"
  | .bltu _ _ _ => "BLTU"
  | .bgeu _ _ _ => "BGEU"
  | .ecall => "ECALL"
  | .ebreak => "EBREAK"
  | .csrrw _ _ _ => "CSRRW"
  | .csrrs _ _ _ => "CSRRS"
  | .csrrc _ _ _ => "CSRRC"
  | .csrrwi _ _ _ => "CSRRWI"
  | .csrrsi _ _ _ => "CSRRSI"
  | .csrrci _ _ _ => "CSRRCI"
  | .fence _ _ _ _ _ => "FENCE"
  | .fenceI _ _ _ => "FENCE.I"
  | .mul _ _ _ => "MUL"
  | .mulh _ _ _ => "MULH"
  | .mulhsu _ _ _ => "MULHSU"
  | .mulhu _ _ _ => "MULHU"
  | .div _ _ _ => "DIV"
  | .divu _ _ _ => "DIVU"
  | .rem _ _ _ => "REM"
  | .remu _ _ _ => "REMU"
  | .lb _ _ _ => "LB"
  | .lh _ _ _ => "LH"
  | .lw _ _ _ => "LW"
  | .lbu _ _ _ => "LBU"
  | .lhu _ _ _ => "LHU"
  | .sb _ _ _ => "SB"
  | .sh _ _ _ => "SH"
  | .sw _ _ _ => "SW"
  | .lrW _ _ _ _ => "LR.W"
  | .scW _ _ _ _ _ => "SC.W"
  | .amoswapW _ _ _ _ _ => "AMOSWAP.W"
  | .amoaddW _ _ _ _ _ => "AMOADD.W"
  | .amoxorW _ _ _ _ _ => "AMOXOR.W"
  | .amoandW _ _ _ _ _ => "AMOAND.W"
  | .amoorW _ _ _ _ _ => "AMOOR.W"
  | .amominW _ _ _ _ _ => "AMOMIN.W"
  | .amomaxW _ _ _ _ _ => "AMOMAX.W"
  | .amominuW _ _ _ _ _ => "AMOMINU.W"
  | .amomaxuW _ _ _ _ _ => "AMOMAXU.W"
  | .flw _ _ _ => "FLW"
  | .fsw _ _ _ => "FSW"
  | .fmaddS _ _ _ _ _ => "FMADD.S"
  | .fmsubS _ _ _ _ _ => "FMSUB.S"
  | .fnmsubS _ _ _ _ _ => "FNMSUB.S"
  | .fnmaddS _ _ _ _ _ => "FNMADD.S"
  | .faddS _ _ _ _ => "FADD.S"
  | .fsubS _ _ _ _ => "FSUB.S"
  | .fmulS _ _ _ _ => "FMUL.S"
  | .fdivS _ _ _ _ => "FDIV.S"
  | .fsqrtS _ _ _ => "FSQRT.S"
  | .fsgnjS _ _ _ => "FSGNJ.S"
  | .fsgnjnS _ _ _ => "FSGNJN.S"
  | .fsgnjxS _ _ _ => "FSGNJX.S"
  | .fminS _ _ _ => "FMIN.S"
  | .fmaxS _ _ _ => "FMAX.S"
  | .fcvtWS _ _ _ => "FCVT.W.S"
  | .fcvtWuS _ _ _ => "FCVT.WU.S"
  | .fmvXW _ _ => "FMV.X.W"
  | .feqS _ _ _ => "FEQ.S"
  | .fltS _ _ _ => "FLT.S"
  | .fleS _ _ _ => "FLE.S"
  | .fclassS _ _ => "FCLASS.S"
  | .fcvtSW _ _ _ => "FCVT.S.W"
  | .fcvtSWu _ _ _ => "FCVT.S.WU"
  | .fmvWX _ _ => "FMV.W.X"

end Sys2Proof
end

