-- ==== Sys2Proof/Machine/State.lean ====
section
/-! DEFINITION. The whole state of the core as plain data (10_state.md R20 to R47), the fault kinds, the refusals,
and the state at reset. -/

namespace Sys2Proof.Machine

/-- The seven fatal conditions (60_exceptions.md R400). Raising one is a NEXT state with status Faulted; every
later step answers the fault itself (log entry 11). All are safe: the machine stops where the spec ends the run. -/
inductive Fault where
  /-- Code 1, by fetch: a word that no executed or suppressed row matches (R401). Safe. -/
  | decodeFault (pc word : Word)
  /-- Code 2, by fetch, a load-buffer read, a commit write or the dispatcher: an unmapped byte (R402). Safe. -/
  | memoryFault (addr : Word)
  /-- Code 3, by the dispatcher at the commit of an ECALL: the call is not implemented (R403). Safe. -/
  | syscallFault (number : Word)
  /-- Code 4, by the MULDIV step when DIV_CORNER = fault (R405). Safe. -/
  | divFault (pc : Word) (op : DivOp) (vj vk : Word)
  /-- Code 5, by fetch, a load-buffer read or a commit write when MISALIGNED = fault (R407). Safe. -/
  | misaligned (addr : Word)
  /-- Code 6, by the disambiguation scan when FWD_WIDER = fault (R408). Safe. -/
  | unmodelledForward (pc addr : Word)
  /-- Code 7, by any lookup of a tag that names no reorder-buffer entry (R406). Safe. -/
  | staleTag (tag : Tag)
deriving DecidableEq, Repr

/-- Why the model has no step. -/
inductive Refusal where
  /-- Raised by exec's arm of an instruction without a meaning. Safe. No arm raises it now. -/
  | notModelled (mnemonic : String)
  /-- Raised by step after an exit: only Running takes ticks (10_state.md R44). Safe: the run is over. -/
  | exited (code : Word)
deriving DecidableEq, Repr

/-- The run status (R44). -/
inductive RunStatus where
  | running
  | exited (code : Word)
  | faulted (fault : Fault)
deriving DecidableEq, Repr

/-- One entry of the register status table (R22). `tag` means something only when `busy` holds. -/
structure RstEntry where
  busy : Bool
  tag : Tag
deriving DecidableEq, Repr

/-- A decoded instruction record (R29). The record's rd, rs1, rs2 and imm are the operands of `op` (log entry 21);
`pred` is the prediction recorded at fetch, meaningful for conditional branches only. -/
structure Decoded where
  op : Op
  pc : Word
  pred : Bool
deriving DecidableEq, Repr

/-- The JALR fetch stall (R26). -/
inductive JalrWait where
  | none
  | unissued
  | waiting (tag : Tag)
deriving DecidableEq, Repr

/-- A reservation-station entry (R30). A `qj` or `qk` of 0 means that operand is resolved. -/
structure RsEntry where
  ins : Decoded
  vj : Word
  qj : Tag
  vk : Word
  qk : Tag
  dest : Tag
  a : Word
  progress : Nat
  result : Word
deriving DecidableEq, Repr

/-- A reorder-buffer entry (R33). -/
structure RobEntry where
  tag : Tag
  ins : Decoded
  dest : Reg
  addr : Word
  addrReady : Bool
  complete : Bool
  result : Word
  wb : Word
  valueReady : Bool
  storeQ : Tag
  progress : Nat
deriving DecidableEq, Repr

/-- A load-buffer entry (R36). -/
structure LbEntry where
  owner : Tag
  ins : Decoded
  addr : Word
  src : Word
  cleared : Bool
  fwd : Option Word
  progress : Nat
  result : Word
deriving DecidableEq, Repr

/-- A CDB message (R39): transient, never part of a state. -/
structure CdbMsg where
  tag : Tag
  value : Word
deriving DecidableEq, Repr

/-- The MODEL's own field, not the spec's (log entry 12): which stage of the tick has called the meaning of an
instruction, and for which entry. `fetch` between ticks. -/
inductive Stage where
  /-- the commit stage, for the head of the reorder buffer (46_commit.md R370) -/
  | commit
  /-- a functional unit, for the reservation-station entry with this dest (40_cycle_issue_rename.md R135) -/
  | execute (tag : Tag)
  /-- the load-buffer step, for the entry with this owner (43_load_store_amo.md R270) -/
  | load (tag : Tag)
  /-- the issue stage, for the head of the instruction queue (R140) -/
  | issue
  /-- the fetch stage, for the word at pc (44_branch_fetch.md R320) -/
  | fetch
deriving DecidableEq, Repr

/-- The state of the core (R47), with the parameters (`cfg`, log entry 1) and the model's own `stage`. The pools
and the load buffer are sets in the spec; here they are lists in ascending tag order (log entry 14). -/
structure State where
  regs : RegFile
  pc : Word
  mem : Memory
  rst : Vector RstEntry 32
  iq : List Decoded
  jalrWait : JalrWait
  rsAlu : List RsEntry
  rsMd : List RsEntry
  rsAgu : List RsEntry
  rob : List RobEntry
  lb : List LbEntry
  nextTag : Nat
  cycle : Nat
  pred : PredState
  status : RunStatus
  cfg : Config
  stage : Stage
deriving DecidableEq, Repr

/-- The start of a run with everything the loader supplies given (70_reset_and_hazards.md R431, 10_state.md R45):
parameters, ENTRY, INIT_REGS and INIT_MEM. x0 is 0 whatever INIT_REGS holds. -/
def State.launch (cfg : Config) (entry : Word) (regs : RegFile) (mem : Memory) : State where
  regs := regs.set 0 0
  pc := entry
  mem := mem
  rst := Vector.replicate 32 ⟨false, 0⟩
  iq := []
  jalrWait := .none
  rsAlu := []
  rsMd := []
  rsAgu := []
  rob := []
  lb := []
  nextTag := 1
  cycle := 0
  pred := cfg.predictor.initial
  status := .running
  cfg := cfg
  stage := .fetch

/-- The machine right after reset (R431). ENTRY, INIT_REGS, INIT_MEM and the parameters are the loader's; the
values here are the model's, each named in the log (entries 2 to 8). -/
def State.reset : State := State.launch Config.atReset 0x00001000#32 (Vector.replicate 32 0) []

end Sys2Proof.Machine
end

