-- ==== Sys2Proof/Machine/Kinds.lean ====
section
/-! DEFINITION. What the stages must know of an instruction besides its meaning: its pool, its latency class and
whether a load is disambiguated against it (30_encoding.md R110, R112; 42_muldiv.md R241; 43_load_store_amo.md R273). -/

namespace Sys2Proof.Machine

/-- The pool and class columns of the opcode table in one: which unit runs the instruction and how it retires. -/
inductive Kind where
  | alu | branch | syscall | mul | div | load | loadReserved
  | store (width : Width)
  | amo | suppressed | refused
deriving DecidableEq, Repr

/-- The kind of each row of the table. -/
def kindOf : Instr → Kind
  | .add _ _ _ | .sub _ _ _ | .sll _ _ _ | .slt _ _ _ | .sltu _ _ _ | .xor _ _ _ | .srl _ _ _ | .sra _ _ _
  | .or _ _ _ | .and _ _ _ | .addi _ _ _ | .slti _ _ _ | .sltiu _ _ _ | .xori _ _ _ | .ori _ _ _ | .andi _ _ _
  | .slli _ _ _ | .srli _ _ _ | .srai _ _ _ | .lui _ _ | .auipc _ _ | .jal _ _ | .jalr _ _ _ => .alu
  | .beq _ _ _ | .bne _ _ _ | .blt _ _ _ | .bge _ _ _ | .bltu _ _ _ | .bgeu _ _ _ => .branch
  | .ecall => .syscall
  | .ebreak | .csrrw _ _ _ | .csrrs _ _ _ | .csrrc _ _ _ | .csrrwi _ _ _ | .csrrsi _ _ _ | .csrrci _ _ _ => .refused
  | .fence _ _ _ _ _ | .fenceI _ _ _ => .alu
  | .mul _ _ _ | .mulh _ _ _ | .mulhsu _ _ _ | .mulhu _ _ _ => .mul
  | .div _ _ _ | .divu _ _ _ | .rem _ _ _ | .remu _ _ _ => .div
  | .lb _ _ _ | .lh _ _ _ | .lw _ _ _ | .lbu _ _ _ | .lhu _ _ _ => .load
  | .sb _ _ _ => .store .byte
  | .sh _ _ _ => .store .half
  | .sw _ _ _ => .store .word
  | .lrW _ _ _ _ => .loadReserved
  | .scW _ _ _ _ _ | .amoswapW _ _ _ _ _ | .amoaddW _ _ _ _ _ | .amoxorW _ _ _ _ _ | .amoandW _ _ _ _ _
  | .amoorW _ _ _ _ _ | .amominW _ _ _ _ _ | .amomaxW _ _ _ _ _ | .amominuW _ _ _ _ _ | .amomaxuW _ _ _ _ _ => .amo
  | .flw _ _ _ | .fsw _ _ _ | .fmaddS _ _ _ _ _ | .fmsubS _ _ _ _ _ | .fnmsubS _ _ _ _ _ | .fnmaddS _ _ _ _ _
  | .faddS _ _ _ _ | .fsubS _ _ _ _ | .fmulS _ _ _ _ | .fdivS _ _ _ _ | .fsqrtS _ _ _ | .fsgnjS _ _ _
  | .fsgnjnS _ _ _ | .fsgnjxS _ _ _ | .fminS _ _ _ | .fmaxS _ _ _ | .fcvtWS _ _ _ | .fcvtWuS _ _ _ | .fmvXW _ _
  | .feqS _ _ _ | .fltS _ _ _ | .fleS _ _ _ | .fclassS _ _ | .fcvtSW _ _ _ | .fcvtSWu _ _ _ | .fmvWX _ _ => .suppressed

/-- The kind of a record's op; NOP goes where a suppressed instruction goes (R110, D11). -/
def opKind : Op → Kind
  | .ins i => kindOf i
  | .nop => .suppressed

/-- The three reservation-station pools (10_state.md R31). -/
inductive Pool where
  | alu | md | agu
deriving DecidableEq, Repr

/-- The bytes of an access (20_memory.md R65). -/
def widthBytes : Width → Nat
  | .byte => 1
  | .half => 2
  | .word => 4

/-- The bits of an access. -/
def widthBits (w : Width) : Nat := 8 * widthBytes w

/-- The store-class instructions, with the width each writes: SB, SH, SW, SC.W and the nine AMOs (R273, R274). -/
def storeWidth (o : Op) : Option Width :=
  match opKind o with
  | .store w => some w
  | .amo => some .word
  | .alu | .branch | .syscall | .mul | .div | .load | .loadReserved | .suppressed | .refused => none

/-- ECALL is harvested and committed its own way (45_cdb.md R352, R353). -/
def isSyscall (o : Op) : Bool := opKind o == .syscall

/-- LR.W is the only address-generation entry that is harvested (43_load_store_amo.md R265). -/
def isLoadReserved (o : Op) : Bool := opKind o == .loadReserved

/-- LAT(op): MUL_LAT for the four multiplies, DIV_LAT for the four divisions (42_muldiv.md R241). Only entries of
rs_md are asked for it. -/
def latency (c : Config) (o : Op) : Nat :=
  match opKind o with
  | .mul => c.mulLat
  | .div | .alu | .branch | .syscall | .load | .loadReserved | .store _ | .amo | .suppressed | .refused => c.divLat

end Sys2Proof.Machine
end

