-- ==== Sys2Proof/Machine/Memory.lean ====
section
/-! DEFINITION. The memory collaborator (20_memory.md R60 to R65): byte cells in one canonical form, little-endian
reads and writes, and the checks every access passes. -/

namespace Sys2Proof.Machine

/-- The canonical form: addresses strictly rising and below 2^32, no byte 0 listed. -/
abbrev Memory.wf (m : Memory) : Prop :=
  m.Pairwise (fun c d => c.1 < d.1) ∧ ∀ c ∈ m, c.1 < 2 ^ 32 ∧ c.2 ≠ 0#8

/-- What an address that is not listed reads as (DESIGN CHOICE, log entry 5). -/
def unlistedByte : Byte := 0#8

/-- The byte at an address given as a number. -/
def readCell : Memory → Nat → Byte
  | [], _ => unlistedByte
  | (k, b) :: rest, a => if a = k then b else readCell rest a

/-- Store a byte, keeping the canonical form: a cell with the unlisted value is not listed. -/
def writeCell : Memory → Nat → Byte → Memory
  | [], a, v => if v = unlistedByte then [] else [(a, v)]
  | (k, b) :: rest, a, v =>
    if a = k then (if v = unlistedByte then rest else (k, v) :: rest)
    else if a < k then (if v = unlistedByte then (k, b) :: rest else (a, v) :: (k, b) :: rest)
    else (k, b) :: writeCell rest a v

/-- mem[a]. -/
def readByte (m : Memory) (a : Word) : Byte := readCell m a.toNat

/-- mem[a] <- v. -/
def writeByte (m : Memory) (a : Word) (v : Byte) : Memory := writeCell m a.toNat v

/-- MemRead(a, n), zero-extended to a word: the byte at the lowest address is the least significant, and a + i is
taken modulo 2^32 (R61, R63). -/
def memRead (m : Memory) (a : Word) : Nat → Word
  | 0 => 0
  | n + 1 => (readByte m a).setWidth 32 ||| (memRead m (a + 1) n <<< 8)

/-- MemWrite(a, n, v): the low n bytes of v, in the same order (R61). -/
def memWrite (m : Memory) (a : Word) : Nat → Word → Memory
  | 0, _ => m
  | n + 1, v => memWrite (writeByte m a (v.extractLsb' 0 8)) (a + 1) n (v >>> 8)

/-- Bytes written one after the other: what the dispatcher does to memory (60_exceptions.md R410, log entry 8). -/
def writeBytes (m : Memory) : List (Word × Byte) → Memory
  | [] => m
  | (a, v) :: rest => writeBytes (writeByte m a v) rest

/-- mapped(a) (R62). -/
def mappedByte (c : Config) (a : Word) : Bool := c.mapped.any fun r => r.lo ≤ a && a ≤ r.hi

/-- Every byte of a, ..., a + n - 1 is mapped, addresses modulo 2^32 (R62). -/
def mappedAll (c : Config) (a : Word) : Nat → Bool
  | 0 => true
  | n + 1 => mappedByte c a && mappedAll c (a + 1) n

/-- Natural alignment: a mod n = 0 (R64). -/
def aligned (a : Word) (n : Nat) : Bool := a.toNat % n == 0

/-- The checks of an n-byte access, Misaligned before MemoryFault (R62, R64; 60_exceptions.md R409). -/
def accessFault (c : Config) (a : Word) (n : Nat) : Option Fault :=
  if c.misaligned = .fault ∧ aligned a n = false then some (.misaligned a)
  else if mappedAll c a n = false then some (.memoryFault a)
  else none

end Sys2Proof.Machine
end

