-- ==== Sys2Proof/Machine/Flags.lean ====
section
/-! DEFINITION. The core has no condition flags (00_scope.md R12, 10_state.md R42). What other machines keep in
flags are here one-bit results: comparisons, branch outcomes, and the minimum and maximum of the AMOs. -/

namespace Sys2Proof.Machine

/-- 1 or 0: the result of a comparison (41_alu.md R228). -/
def bit (b : Bool) : Word := if b then 1 else 0

/-- signed(a) < signed(b) (00_scope.md R10). -/
def ltSigned (a b : Word) : Bool := decide (a.toInt < b.toInt)

/-- unsigned(a) < unsigned(b) (00_scope.md R10). -/
def ltUnsigned (a b : Word) : Bool := decide (a.toNat < b.toNat)

/-- The branch conditions (41_alu.md R195 to R200). -/
def takenEq (a b : Word) : Bool := a == b
def takenNe (a b : Word) : Bool := a != b
def takenLt (a b : Word) : Bool := ltSigned a b
def takenGe (a b : Word) : Bool := !ltSigned a b
def takenLtu (a b : Word) : Bool := ltUnsigned a b
def takenGeu (a b : Word) : Bool := !ltUnsigned a b

/-- The AMO minima and maxima: the memory word where it is not beaten (43_load_store_amo.md R280). -/
def minSigned (old src : Word) : Word := if old.toInt ≤ src.toInt then old else src
def maxSigned (old src : Word) : Word := if old.toInt ≥ src.toInt then old else src
def minUnsigned (old src : Word) : Word := if old.toNat ≤ src.toNat then old else src
def maxUnsigned (old src : Word) : Word := if old.toNat ≥ src.toNat then old else src

end Sys2Proof.Machine
end

