-- ==== Sys2Proof/Machine/Arith.lean ====
section
/-! DEFINITION. The values the ALU and the MULDIV unit compute (41_alu.md R171 to R194, R228; 42_muldiv.md R242 to
R250), the load extension (43_load_store_amo.md R279) and the width cuts. -/

namespace Sys2Proof.Machine

/-- The shift amount: the low 5 bits of the second operand (41_alu.md R171). -/
def shiftAmount (k : Word) : Nat := (k.extractLsb' 0 5).toNat

def shiftLeft (j k : Word) : Word := j <<< shiftAmount k
def shiftRightLogical (j k : Word) : Word := j >>> shiftAmount k
def shiftRightArith (j k : Word) : Word := j.sshiftRight (shiftAmount k)

/-- The JALR target: the sum with bit 0 cleared (44_branch_fetch.md R328). -/
def jalrTarget (j k : Word) : Word := (j + k) &&& 0xfffffffe#32

/-- Bits 63..32 of an exact product (42_muldiv.md R243 to R245). -/
def highWord (p : Int) : Word := (BitVec.ofInt 64 p).extractLsb' 32 32

def mulHigh (j k : Word) : Word := highWord (j.toInt * k.toInt)
def mulHighSU (j k : Word) : Word := highWord (j.toInt * (k.toNat : Int))
def mulHighU (j k : Word) : Word := highWord ((j.toNat : Int) * (k.toNat : Int))

/-- The ordinary quotient or remainder: signed division rounds toward zero and the remainder has the dividend's
sign (42_muldiv.md R246 to R249). -/
def quotient : DivOp → Word → Word → Word
  | .div, j, k => BitVec.ofInt 32 (j.toInt.tdiv k.toInt)
  | .divu, j, k => BitVec.ofNat 32 (j.toNat / k.toNat)
  | .rem, j, k => BitVec.ofInt 32 (j.toInt.tmod k.toInt)
  | .remu, j, k => BitVec.ofNat 32 (j.toNat % k.toNat)

/-- A division corner case: a zero divisor, or the one signed overflow (42_muldiv.md R250). -/
def divCornerCase : DivOp → Word → Word → Bool
  | .div, j, k => k == 0 || (j == 0x80000000#32 && k == 0xffffffff#32)
  | .rem, j, k => k == 0 || (j == 0x80000000#32 && k == 0xffffffff#32)
  | .divu, _, k => k == 0
  | .remu, _, k => k == 0

/-- The RISC-V values on a corner case, one admissible host function (42_muldiv.md R250). -/
def riscvCorner : DivOp → Word → Word → Word
  | .div, _, k => if k = 0 then 0xffffffff#32 else 0x80000000#32
  | .divu, _, _ => 0xffffffff#32
  | .rem, j, k => if k = 0 then j else 0
  | .remu, j, _ => j

/-- md(op, Vj, Vk) for the divisions: none where R250 raises DivFault. -/
def divide (corner : DivCorner) (op : DivOp) (j k : Word) : Option Word :=
  if divCornerCase op j k then
    match corner with
    | .fault => none
    | .host => some (Config.hostDivision op j k)
    | .riscv => some (riscvCorner op j k)
  else some (quotient op j k)

/-- The low `widthBits w` bits of a word, zero-extended: v mod 2^(8·w) (43_load_store_amo.md R274). -/
def lowBytes (w : Width) (v : Word) : Word :=
  match w with
  | .byte => (v.extractLsb' 0 8).setWidth 32
  | .half => (v.extractLsb' 0 16).setWidth 32
  | .word => v

/-- Load extension (43_load_store_amo.md R279): the low bytes, sign-extended where `sign` is set. -/
def extend (w : Width) (sign : Bool) (v : Word) : Word :=
  match w, sign with
  | .byte, true => (v.extractLsb' 0 8).signExtend 32
  | .half, true => (v.extractLsb' 0 16).signExtend 32
  | .byte, false => (v.extractLsb' 0 8).setWidth 32
  | .half, false => (v.extractLsb' 0 16).setWidth 32
  | .word, _ => v

end Sys2Proof.Machine
end

