-- ==== Sys2Proof/Machine/Ops.lean ====
section
/-! DEFINITION. The named operations over the state: raising a fault, sequencing within a tick, the register file,
the register status table, the reorder buffer, the squash, the predictor and the dispatcher. -/

namespace Sys2Proof.Machine

/-- The three outcomes of exec, of a stage and of a step. -/
abbrev Out := Host.Outcome State Fault Refusal

/-! ### Raising a fault, and what follows within a tick -/

/-- `raise Fault(kind, info)` (60_exceptions.md R400): the run status becomes Faulted. What was already written
stays, what was not yet written is not; `andThen` stops the tick. The core has no handler, saves no pc or status,
and has no return from a fault (R404, R419), so this is the whole of taking one. -/
def raise (f : Fault) (s : State) : State := { s with status := .faulted f }

/-- One stage, or one entry of a unit's step, after another (40_cycle_issue_rename.md R131): it runs only while the
status is Running (R130, R400, R411). -/
def andThen (o : Out) (f : State → Out) : Out :=
  match o with
  | .next s => if s.status = .running then f s else .next s
  | .fault r => .fault r
  | .refused r => .refused r

/-! ### The register file (10_state.md R20, R21) -/

/-- x[r]: x0 always reads as 0. -/
def readReg (s : State) (r : Reg) : Word := if r = 0 then 0 else s.regs[r.toNat]'r.isLt

/-- x[r] <- v: x0 is never written. -/
def writeReg (r : Reg) (v : Word) (s : State) : State :=
  if r = 0 then s else { s with regs := s.regs.set r.toNat v r.isLt }

/-! ### The register status table (10_state.md R22, R23) -/

/-- A register with no value pending: (busy 0, tag 0). -/
def freeEntry : RstEntry := ⟨false, 0⟩

/-- RST[r]. -/
def rstAt (s : State) (r : Reg) : RstEntry := s.rst[r.toNat]'r.isLt

/-- RST[r] <- e. -/
def setRst (r : Reg) (e : RstEntry) (s : State) : State := { s with rst := s.rst.set r.toNat e r.isLt }

/-- claim(rd, T), when rd is not x0 (40_cycle_issue_rename.md R146): it supersedes any older producer. -/
def claim (r : Reg) (t : Tag) (s : State) : State := if r = 0 then s else setRst r ⟨true, t⟩ s

/-- release(r, T) (46_commit.md R377): only the owner's tag clears the busy flag. -/
def release (r : Reg) (t : Tag) (s : State) : State :=
  if r ≠ 0 ∧ (rstAt s r).busy = true ∧ (rstAt s r).tag = t then setRst r freeEntry s else s

/-- clear_all: every entry (busy 0, tag 0) (R23). -/
def clearAll : Vector RstEntry 32 := Vector.replicate 32 freeEntry

/-! ### Entries by tag -/

/-- Change the first entry for which `p` holds. -/
def updateFirst {α : Type} (p : α → Bool) (f : α → α) : List α → List α
  | [] => []
  | x :: rest => if p x then f x :: rest else x :: updateFirst p f rest

/-- rob[T] (00_scope.md R11): none where no entry has the tag, which is StaleTag for whoever asks (R406). -/
def robAt (s : State) (t : Tag) : Option RobEntry := s.rob.find? fun h => h.tag == t

/-- Write fields of rob[T]. -/
def updateRob (t : Tag) (f : RobEntry → RobEntry) (s : State) : State :=
  { s with rob := updateFirst (fun h => h.tag == t) f s.rob }

/-- rob.older(T): the entries strictly older than T, from the youngest to the oldest (10_state.md R34). -/
def olderThan (s : State) (t : Tag) : List RobEntry := (s.rob.takeWhile fun h => h.tag != t).reverse

/-- Put a load-buffer entry in its place: the load buffer is kept in ascending order of its owners' tags, which is
the order the load-buffer step processes it in (43_load_store_amo.md R271). -/
def insertLb (l : LbEntry) : List LbEntry → List LbEntry
  | [] => [l]
  | m :: rest => if l.owner < m.owner then l :: m :: rest else m :: insertLb l rest

/-- Write back a load-buffer entry. -/
def setLb (l : LbEntry) (s : State) : State :=
  { s with lb := updateFirst (fun m => m.owner == l.owner) (fun _ => l) s.lb }

/-- The entries of a pool. -/
def poolOf (s : State) : Pool → List RsEntry
  | .alu => s.rsAlu
  | .md => s.rsMd
  | .agu => s.rsAgu

/-- Replace the entries of a pool. -/
def setPool (p : Pool) (es : List RsEntry) (s : State) : State :=
  match p with
  | .alu => { s with rsAlu := es }
  | .md => { s with rsMd := es }
  | .agu => { s with rsAgu := es }

/-- Both operands are resolved: Qj = 0 and Qk = 0 (40_cycle_issue_rename.md R152). -/
def RsEntry.ready (e : RsEntry) : Bool := e.qj == 0 && e.qk == 0

/-! ### Retirement and squash (46_commit.md R381, R383) -/

/-- retire(h): the head leaves the reorder buffer. -/
def retire (s : State) : State := { s with rob := s.rob.tail }

/-- squash(): every speculative structure is emptied; regs, mem, pc, nextTag, cycle, pred and status stay (R385). -/
def squash (s : State) : State :=
  { s with
    iq := [], rsAlu := [], rsMd := [], rsAgu := [], lb := [], rob := [], rst := clearAll, jalrWait := .none }

/-! ### The branch predictor (44_branch_fetch.md R330 to R332) -/

/-- The counter at a table index; `init` where the table lists none. -/
def counterAt (init : Fin 4) : PredState → Nat → Fin 4
  | [], _ => init
  | (k, c) :: rest, i => if i = k then c else counterAt init rest i

/-- Set the counter at a table index; indices stay strictly rising. -/
def setCounter : PredState → Nat → Fin 4 → PredState
  | [], i, c => [(i, c)]
  | (k, d) :: rest, i, c =>
    if i = k then (k, c) :: rest
    else if i < k then (i, c) :: (k, d) :: rest
    else (k, d) :: setCounter rest i c

/-- One step toward taken or not taken, saturating at 3 and 0. -/
def bump (c : Fin 4) (taken : Bool) : Fin 4 :=
  match taken, c with
  | true, 0 => 1
  | true, 1 => 2
  | true, _ => 3
  | false, 3 => 2
  | false, 2 => 1
  | false, _ => 0

/-- predict(pc). -/
def predict (s : State) (pc : Word) : Bool :=
  match s.cfg.predictor with
  | .static taken => taken
  | .twoBit init => decide (2 ≤ (counterAt init s.pred (Config.branchIndex pc)).val)
  | .injected => Config.injectedPredict s.pred pc

/-- update(pc, outcome) of the policy. -/
def updatedPred (s : State) (pc : Word) (taken : Bool) : PredState :=
  match s.cfg.predictor with
  | .static _ => s.pred
  | .twoBit init =>
    setCounter s.pred (Config.branchIndex pc) (bump (counterAt init s.pred (Config.branchIndex pc)) taken)
  | .injected => Config.injectedUpdate s.pred pc taken

/-! ### The system-call dispatcher (60_exceptions.md R410) -/

/-- The example dispatcher S_ex of 95_test_vectors.md section 0: x17 = 93 exits with x10, x17 = 1 answers 2·x10,
any other number is unimplemented. -/
def sampleDispatcher (regs : RegFile) : SyscallAnswer :=
  if regs[17] = 93#32 then .exit regs[10]
  else if regs[17] = 1#32 then .resume (regs[10] + regs[10]) []
  else .unimplemented regs[17]

/-- handle(register_file, memory, clock): clock is the tick's cycle number (R410, 10_state.md R27). -/
def dispatch (s : State) : SyscallAnswer :=
  match s.cfg.dispatcher with
  | .host => Config.syscall s.regs s.mem s.cycle
  | .sample => sampleDispatcher s.regs

end Sys2Proof.Machine
end

