-- ==== Sys2Proof/Machine/Operands.lean ====
section
/-! DEFINITION. Operand forms, the rename read and the issue of one instruction (30_encoding.md R111;
40_cycle_issue_rename.md R140 to R148). -/

namespace Sys2Proof.Machine

/-- What fills an operand slot at issue (30_encoding.md R111): a register through the rename read, a constant, or
the instruction's own pc. -/
inductive Operand where
  | reg (r : Reg)
  | const (v : Word)
  | pc
deriving DecidableEq, Repr

/-- A filled slot: a value with tag 0, or 0 with the tag of the pending producer (10_state.md R30). -/
structure Slot where
  v : Word
  q : Tag
deriving DecidableEq, Repr

/-- The answer of a rename read: a slot, or the stale tag it met (R141). -/
inductive RenameRead where
  | slot (x : Slot)
  | stale (t : Tag)
deriving DecidableEq, Repr

/-- read(r), the architectural-to-physical mapping (10_state.md R40; 40_cycle_issue_rename.md R141). -/
def renameRead (s : State) (r : Reg) : RenameRead :=
  if r = 0 then .slot ⟨0, 0⟩
  else if (rstAt s r).busy = false then .slot ⟨readReg s r, 0⟩
  else match robAt s (rstAt s r).tag with
    | none => .stale (rstAt s r).tag
    | some h => if h.complete then .slot ⟨h.result, 0⟩ else .slot ⟨0, (rstAt s r).tag⟩

/-- A slot of R111. `pc` is the address the instruction was fetched from. -/
def readOperand (s : State) (pc : Word) : Operand → RenameRead
  | .reg r => renameRead s r
  | .const v => .slot ⟨v, 0⟩
  | .pc => .slot ⟨pc, 0⟩

/-- The three operands of an issue, read in the order Vj, Vk, store data (R148); the store data of an instruction
that is no store is (0, 0). -/
inductive IssueReads where
  | slots (j k data : Slot)
  | stale (t : Tag)
deriving DecidableEq, Repr

def readOperands (s : State) (pc : Word) (j k : Operand) (data : Option Reg) : IssueReads :=
  match readOperand s pc j with
  | .stale t => .stale t
  | .slot x =>
    match readOperand s pc k with
    | .stale t => .stale t
    | .slot y =>
      match data with
      | none => .slots x y ⟨0, 0⟩
      | some r =>
        match renameRead s r with
        | .stale t => .stale t
        | .slot z => .slots x y z

/-- What R111 gives an instruction: its pool, its slots, its A field, its destination, and the register whose value
is a store's data. -/
structure IssueForm where
  pool : Pool
  j : Operand
  k : Operand
  a : Word
  dest : Reg
  data : Option Reg
deriving DecidableEq, Repr

/-- The reorder-buffer entry of an issue (R142, R144). -/
def newRobEntry (form : IssueForm) (r : Decoded) (t : Tag) (data : Slot) : RobEntry where
  tag := t
  ins := r
  dest := form.dest
  addr := 0
  addrReady := false
  complete := false
  result := 0
  wb := data.v
  valueReady := form.data.isSome && data.q == 0
  storeQ := data.q
  progress := 0

/-- The reservation-station entry of an issue (R143). -/
def newRsEntry (form : IssueForm) (r : Decoded) (t : Tag) (j k : Slot) : RsEntry where
  ins := r
  vj := j.v
  qj := j.q
  vk := k.v
  qk := k.q
  dest := t
  a := form.a
  progress := 0
  result := 0

/-- The issue of the head of iq (R148): the record leaves iq, takes the next tag, reads every source, allocates its
two entries, and only then claims its destination (R145, R146). A stale tag stops it after the pop and the tag. -/
def issueAs (form : IssueForm) (s : State) : State :=
  match s.iq with
  | [] => s
  | r :: rest =>
    let t := s.nextTag
    let s1 := { s with iq := rest, nextTag := t + 1 }
    match readOperands s1 r.pc form.j form.k form.data with
    | .stale q => raise (.staleTag q) s1
    | .slots j k data =>
      let s2 := { s1 with rob := s1.rob ++ [newRobEntry form r t data] }
      let s3 := setPool form.pool (poolOf s2 form.pool ++ [newRsEntry form r t j k]) s2
      claim form.dest t s3

/-- The issue of a JALR also hands the fetch stall over to its tag (R147). -/
def issueJalr (form : IssueForm) (s : State) : State :=
  let t := s.nextTag
  let s1 := issueAs form s
  if s.iq ≠ [] ∧ s1.status = .running ∧ s1.jalrWait = .unissued then { s1 with jalrWait := .waiting t } else s1

end Sys2Proof.Machine
end

