-- ==== Sys2Proof/Machine/FetchOps.lean ====
section
/-! DEFINITION. What the fetch stage does with each kind of instruction once its word is read and decoded
(44_branch_fetch.md R320 to R327, R334; 30_encoding.md R120). -/

namespace Sys2Proof.Machine

/-- The word at the fetch pc, little-endian (R321). -/
def fetchedWord (s : State) : Word := memRead s.mem s.pc 4

/-- iq.append(I); pc <- next (R327). -/
def enqueue (o : Op) (pred : Bool) (next : Word) (s : State) : State :=
  { s with iq := s.iq ++ [⟨o, s.pc, pred⟩], pc := next }

/-- Every instruction that is no branch, JAL or JALR (R323). -/
def fetchNext (i : Instr) (s : State) : State := enqueue (.ins i) false (s.pc + 4) s

/-- A suppressed instruction is delivered as NOP with the same pc (41_alu.md R232; R334). -/
def fetchNop (s : State) : State := enqueue .nop false (s.pc + 4) s

/-- A conditional branch: the predictor's answer is recorded and followed (R324). -/
def fetchBranch (i : Instr) (imm : Word) (s : State) : State :=
  let p := predict s s.pc
  enqueue (.ins i) p (if p then s.pc + imm else s.pc + 4) s

/-- JAL jumps at fetch, without asking the predictor (R326). -/
def fetchJal (i : Instr) (imm : Word) (s : State) : State := enqueue (.ins i) false (s.pc + imm) s

/-- JALR leaves pc as it is and stalls fetch (R325). -/
def fetchJalr (i : Instr) (s : State) : State :=
  { enqueue (.ins i) false s.pc s with jalrWait := .unissued }

/-- A refused row: DecodeFault (pc, word), as for a word that matches no row (R322; 30_encoding.md R120, R121). -/
def fetchRefused (s : State) : State := raise (.decodeFault s.pc (fetchedWord s)) s

end Sys2Proof.Machine
end

