-- ==== Sys2Proof/Machine/Units.lean ====
section
/-! DEFINITION. What the functional units do with one entry in the execute stage: the ALU (41_alu.md R170), the
MULDIV unit (42_muldiv.md R240), address generation (43_load_store_amo.md R260 to R264) and the load buffer (R270
to R281). -/

namespace Sys2Proof.Machine

/-! ### ALU and MULDIV -/

/-- The entry of a pool that its unit works on this tick: both operands resolved (R170, R240, R260). -/
def entryReady (t : Tag) (e : RsEntry) : Bool := e.dest == t && e.ready

/-- The ALU step on one entry (R170): result <- alu(ins, Vj, Vk), progress <- 1. `f` takes Vj, Vk and ins.pc. -/
def aluEvaluate (f : Word → Word → Word → Word) (t : Tag) (s : State) : State :=
  { s with
    rsAlu := updateFirst (fun e => entryReady t e && e.progress == 0)
      (fun e => { e with result := f e.vj e.vk e.ins.pc, progress := 1 }) s.rsAlu }

/-- Write back an rs_md entry. -/
def setMd (e : RsEntry) (s : State) : State :=
  { s with rsMd := updateFirst (fun x => x.dest == e.dest) (fun _ => e) s.rsMd }

/-- The MULDIV step on one entry (R240): one tick of progress, and at LAT the result. The progress of the tick that
raises DivFault has been counted when the fault is raised (60_exceptions.md R400; log entry 17). -/
def mdAdvance (lat : Nat) (f : Word → Word → Option Word) (op : DivOp) (t : Tag) (s : State) : State :=
  match s.rsMd.find? (fun e => entryReady t e && decide (e.progress < lat)) with
  | none => s
  | some e =>
    let e1 := { e with progress := e.progress + 1 }
    if e1.progress = lat then
      match f e.vj e.vk with
      | some v => setMd { e1 with result := v } s
      | none => raise (.divFault e.ins.pc op e.vj e.vk) (setMd e1 s)
    else setMd e1 s

/-! ### Address generation -/

/-- The rs_agu entry address generation processes this tick, if it is there (R260). -/
def aguEntry (t : Tag) (s : State) : Option RsEntry :=
  s.rsAgu.find? fun e => entryReady t e && e.progress == 0

/-- The effective address Vj + A, modulo 2^32 (R260). -/
def effectiveAddress (e : RsEntry) : Word := e.vj + e.a

/-- Take the entry out of rs_agu. -/
def dropAgu (t : Tag) (s : State) : State :=
  { s with rsAgu := s.rsAgu.eraseP fun e => entryReady t e && e.progress == 0 }

/-- rob[T].addr <- a; rob[T].addr_ready <- 1 (R262 to R264). -/
def setAddress (t : Tag) (a : Word) (s : State) : State :=
  updateRob t (fun h => { h with addr := a, addrReady := true }) s

/-- The load-buffer entry address generation makes (R261, R263). -/
def newLbEntry (e : RsEntry) (src : Word) : LbEntry where
  owner := e.dest
  ins := e.ins
  addr := effectiveAddress e
  src := src
  cleared := false
  fwd := none
  progress := 0
  result := 0

def addLb (l : LbEntry) (s : State) : State := { s with lb := insertLb l s.lb }

/-- A load (R261): a load-buffer entry; the reorder-buffer entry is not touched. -/
def aguLoad (t : Tag) (s : State) : State :=
  match aguEntry t s with
  | none => s
  | some e => dropAgu t (addLb (newLbEntry e 0) s)

/-- A store (R262): the address goes to the reorder-buffer entry. -/
def aguStore (t : Tag) (s : State) : State :=
  match aguEntry t s with
  | none => s
  | some e =>
    match robAt s t with
    | none => raise (.staleTag t) s
    | some _ => dropAgu t (setAddress t (effectiveAddress e) s)

/-- SC.W and the AMOs (R263): both, with the source value Vk in the load-buffer entry. -/
def aguAmo (t : Tag) (s : State) : State :=
  match aguEntry t s with
  | none => s
  | some e =>
    match robAt s t with
    | none => raise (.staleTag t) s
    | some _ => dropAgu t (addLb (newLbEntry e e.vk) (setAddress t (effectiveAddress e) s))

/-- LR.W (R264): the address, and the result 0 in the address-generation entry itself, which stays for harvest. -/
def aguLoadReserved (t : Tag) (s : State) : State :=
  match aguEntry t s with
  | none => s
  | some e =>
    match robAt s t with
    | none => raise (.staleTag t) s
    | some _ =>
      let s1 := setAddress t (effectiveAddress e) s
      { s1 with
        rsAgu := updateFirst (fun x => entryReady t x && x.progress == 0)
          (fun x => { x with result := 0, progress := 1 }) s1.rsAgu }

/-! ### The load buffer -/

/-- The answer of the disambiguation scan (R273, R277). -/
inductive Scan where
  | stall
  | forward (v : Word)
  | memory
  | fault (f : Fault)
deriving DecidableEq, Repr

/-- forward(l, s) for a matching entry whose value is ready (R274, R277): wl and ws are the two widths. -/
def forwardFrom (c : Config) (l : LbEntry) (wl ws : Width) (h : RobEntry) : Scan :=
  if widthBytes wl ≤ widthBytes ws then .forward (lowBytes wl h.wb)
  else match c.fwdWider with
    | .fault => .fault (.unmodelledForward l.ins.pc l.addr)
    | .raw => .forward (lowBytes wl h.wb)

/-- The scan over the older entries, youngest first (R273): it ends at the first store-class entry that has no
address yet or has this address. -/
def scanOlder (c : Config) (l : LbEntry) (wl : Width) : List RobEntry → Scan
  | [] => .memory
  | h :: rest =>
    match storeWidth h.ins.op with
    | none => scanOlder c l wl rest
    | some ws =>
      if h.addrReady = false then .stall
      else if h.addr = l.addr then
        if h.valueReady then forwardFrom c l wl ws h else .stall
      else scanOlder c l wl rest

/-- disambiguate(l) (R273). An owner that names no entry has no older entries to ask for: StaleTag (log entry 16). -/
def disambiguate (s : State) (l : LbEntry) (wl : Width) : Scan :=
  match robAt s l.owner with
  | none => .fault (.staleTag l.owner)
  | some _ => scanOlder s.cfg l wl (olderThan s l.owner)

/-- The entry once cleared: fwd holds the forwarded value or none (R275). -/
def clearedEntry (l : LbEntry) (fwd : Option Word) : LbEntry := { l with fwd := fwd, cleared := true }

/-- The part of the load-buffer step behind the scan (R270): one tick of progress, and at CACHE_LAT the value,
forwarded or read from memory (R278). The progress is counted when a read faults (log entry 17). -/
def lbProceed (wl : Width) (finish : LbEntry → Word → State → State) (l : LbEntry) (s : State) : State :=
  let l1 := { l with progress := l.progress + 1 }
  let s1 := setLb l1 s
  if l1.progress = s.cfg.cacheLat then
    match l1.fwd with
    | some v => finish l1 v s1
    | none =>
      match accessFault s.cfg l1.addr (widthBytes wl) with
      | some f => raise f s1
      | none => finish l1 (memRead s.mem l1.addr (widthBytes wl)) s1
  else s1

/-- The load-buffer step on one entry (R270). `finish` is what is done with the value. -/
def lbAdvance (wl : Width) (finish : LbEntry → Word → State → State) (t : Tag) (s : State) : State :=
  match s.lb.find? (fun l => l.owner == t && decide (l.progress < s.cfg.cacheLat)) with
  | none => s
  | some l =>
    if l.cleared then lbProceed wl finish l s
    else match disambiguate s l wl with
      | .stall => s
      | .forward v => lbProceed wl finish (clearedEntry l (some v)) s
      | .memory => lbProceed wl finish (clearedEntry l none) s
      | .fault f => raise f s

/-- A load's value (R279). -/
def finishLoad (wl : Width) (sign : Bool) (l : LbEntry) (old : Word) (s : State) : State :=
  setLb { l with result := extend wl sign old } s

/-- amo_complete(l, old) (R281): `result` is what rd receives, `new` the word to be written at commit. -/
def finishAmo (result new : Word → Word → Word) (l : LbEntry) (old : Word) (s : State) : State :=
  let s1 := setLb { l with result := result old l.src } s
  match robAt s1 l.owner with
  | none => raise (.staleTag l.owner) s1
  | some _ =>
    updateRob l.owner
      (fun h => { h with result := result old l.src, wb := new old l.src, valueReady := true }) s1

end Sys2Proof.Machine
end

