-- ==== Sys2Proof/Machine/CommitOps.lean ====
section
/-! DEFINITION. The four commit classes on the head of the reorder buffer (46_commit.md R370 to R379). -/

namespace Sys2Proof.Machine

/-- x[h.dest] <- h.result and release(h.dest, h.tag), when dest is not x0. The write does not ask for ownership;
only the release does (R376, R377; 90_conflicts.md C2). -/
def writeBack (h : RobEntry) (s : State) : State := release h.dest h.tag (writeReg h.dest h.result s)

/-- Store, SC.W and AMO (R372): an in-order stall, one latency tick, then the checks, the write, the register and
the retirement. -/
def commitStore (w : Width) (s : State) : State :=
  match s.rob with
  | [] => s
  | h :: rest =>
    if h.addrReady = false ∨ h.valueReady = false then s
    else if h.progress = 0 then { s with rob := { h with progress := 1 } :: rest }
    else match accessFault s.cfg h.addr (widthBytes w) with
      | some f => raise f s
      | none => retire (writeBack h { s with mem := memWrite s.mem h.addr (widthBytes w) h.wb })

/-- The correct target after a misprediction, from the branch's own record (R379). -/
def branchTarget (h : RobEntry) (imm : Word) (taken : Bool) : Word :=
  if taken then h.ins.pc + imm else h.ins.pc + 4

/-- Conditional branch (R374): the predictor learns the outcome, the branch retires, and a misprediction redirects
pc and squashes. -/
def commitBranch (imm : Word) (s : State) : State :=
  match s.rob with
  | [] => s
  | h :: _ =>
    if h.complete = false then s
    else
      let actual := h.result == 1
      let s1 := retire { s with pred := updatedPred s h.ins.pc actual }
      if actual = h.ins.pred then s1
      else squash { s1 with pc := branchTarget h imm actual }

/-- What a dispatcher that continues writes: x10 and memory (60_exceptions.md R410). -/
def syscallEffect (v : Word) (writes : List (Word × Byte)) (s : State) : State :=
  writeReg 10 v { s with mem := writeBytes s.mem writes }

/-- ECALL (R375): the dispatcher runs at the head only. If it continues, pc goes to the next pc, x10 is released if
still owned, and everything speculative is squashed. An exit ends the run with the ECALL still at the head
(60_exceptions.md R411). -/
def commitSyscall (s : State) : State :=
  match s.rob with
  | [] => s
  | h :: _ =>
    if h.valueReady = false then s
    else match dispatch s with
      | .resume v writes =>
        let s1 := syscallEffect v writes s
        squash (retire (release 10 h.tag { s1 with pc := h.result }))
      | .exit code => { s with status := .exited code }
      | .unimplemented n => raise (.syscallFault n) s
      | .memFault a => raise (.memoryFault a) s

/-- Every other instruction (R376). -/
def commitOther (s : State) : State :=
  match s.rob with
  | [] => s
  | h :: _ => if h.complete = false then s else retire (writeBack h s)

end Sys2Proof.Machine
end

