-- ==== Sys2Proof/Machine/Life.lean ====
section
/-! DEFINITION. The life of an instruction in the core, by kind: what it does at fetch, at issue, in its functional
unit, in the load buffer and at commit. Each stage of the tick calls exec, which runs the part of its own stage
(log entry 13). The broadcast stage needs no meaning of an instruction (45_cdb.md R350 to R358). -/

namespace Sys2Proof.Machine

/-- What one kind of instruction does in each stage of the tick. -/
def life (fetch issue : State → State) (execute load : Tag → State → State) (commit : State → State) (s : State) :
    Out :=
  .next (match s.stage with
    | .fetch => fetch s
    | .issue => issue s
    | .execute t => execute t s
    | .load t => load t s
    | .commit => commit s)

/-- An instruction that is in no load buffer does nothing there. -/
def noLoad (_ : Tag) (s : State) : State := s

/-- Issue into rs_alu (30_encoding.md R110, R111). -/
def aluForm (j k : Operand) (dest : Reg) : IssueForm := ⟨.alu, j, k, 0, dest, none⟩

/-- Issue into rs_md (R110, R111). -/
def mdForm (rs1 rs2 dest : Reg) : IssueForm := ⟨.md, .reg rs1, .reg rs2, 0, dest, none⟩

/-- Issue of a load into rs_agu: Vk is 0 and A the immediate (R111). -/
def loadForm (rs1 : Reg) (imm : Word) (dest : Reg) : IssueForm := ⟨.agu, .reg rs1, .const 0, imm, dest, none⟩

/-- Issue of a store: the data register is read onto the reorder-buffer entry (R111, R144). -/
def storeForm (rs1 rs2 : Reg) (imm : Word) : IssueForm := ⟨.agu, .reg rs1, .const 0, imm, 0, some rs2⟩

/-- Issue of SC.W and the AMOs (R111). -/
def amoForm (rs1 rs2 dest : Reg) : IssueForm := ⟨.agu, .reg rs1, .reg rs2, 0, dest, none⟩

/-- An ALU-pool instruction that fetch passes by and that commits as class other. `f` takes Vj, Vk and ins.pc. -/
def aluInstr (i : Instr) (form : IssueForm) (f : Word → Word → Word → Word) (s : State) : Out :=
  life (fetchNext i) (issueAs form) (aluEvaluate f) noLoad commitOther s

/-- A conditional branch (41_alu.md section 6): the ALU computes the outcome only. -/
def branchInstr (i : Instr) (rs1 rs2 : Reg) (imm : Word) (taken : Word → Word → Bool) (s : State) : Out :=
  life (fetchBranch i imm) (issueAs (aluForm (.reg rs1) (.reg rs2) 0)) (aluEvaluate fun j k _ => bit (taken j k))
    noLoad (commitBranch imm) s

/-- A multiply (42_muldiv.md R241 to R245): MUL_LAT ticks, no fault. -/
def mulInstr (i : Instr) (rd rs1 rs2 : Reg) (f : Word → Word → Word) (s : State) : Out :=
  life (fetchNext i) (issueAs (mdForm rs1 rs2 rd))
    (fun t s => mdAdvance s.cfg.mulLat (fun j k => some (f j k)) .div t s) noLoad commitOther s

/-- A division or remainder (R241, R246 to R250): DIV_LAT ticks. -/
def divInstr (i : Instr) (op : DivOp) (rd rs1 rs2 : Reg) (s : State) : Out :=
  life (fetchNext i) (issueAs (mdForm rs1 rs2 rd))
    (fun t s => mdAdvance s.cfg.divLat (divide s.cfg.divCorner op) op t s) noLoad commitOther s

/-- A load (43_load_store_amo.md section 3). -/
def loadInstr (i : Instr) (w : Width) (sign : Bool) (rd rs1 : Reg) (imm : Word) (s : State) : Out :=
  life (fetchNext i) (issueAs (loadForm rs1 imm rd)) aguLoad (lbAdvance w (finishLoad w sign)) commitOther s

/-- A store (section 4): address generation, then commit; no harvest. -/
def storeInstr (i : Instr) (w : Width) (rs1 rs2 : Reg) (imm : Word) (s : State) : Out :=
  life (fetchNext i) (issueAs (storeForm rs1 rs2 imm)) aguStore noLoad (commitStore w) s

/-- SC.W and the AMOs (section 5): `result` and `new` take the old word and the source value; SC.W's result is a
parameter, so both also take the parameters. -/
def amoInstr (i : Instr) (rd rs1 rs2 : Reg) (result : Config → Word → Word → Word) (new : Word → Word → Word)
    (s : State) : Out :=
  life (fetchNext i) (issueAs (amoForm rs1 rs2 rd)) aguAmo
    (fun t s => lbAdvance .word (finishAmo (result s.cfg) new) t s) (commitStore .word) s

/-- The result of an AMO other than SC.W is the word read (43_load_store_amo.md R281). -/
def oldValue (_ : Config) (old _ : Word) : Word := old

/-- The internal NOP (41_alu.md R232), and so every suppressed instruction: slots const(0), result 0, no register,
class other; fetch enqueues the NOP record in its place. -/
def nopLife (s : State) : Out :=
  life fetchNop (issueAs (aluForm (.const 0) (.const 0) 0)) (aluEvaluate fun _ _ _ => 0) noLoad commitOther s

/-- A refused row never passes fetch (30_encoding.md R121). Its meaning is the DecodeFault, whichever stage asks. -/
def refusedLife (s : State) : Out :=
  life fetchRefused fetchRefused (fun _ => fetchRefused) (fun _ => fetchRefused) fetchRefused s

end Sys2Proof.Machine
end

