-- ==== Sys2Proof/Machine/IntReg.lean ====
section
/-! DEFINITION. The register-register operations of opcode OP (41_alu.md R172 to R181). -/

namespace Sys2Proof.Machine

/-- ADD (41_alu.md R172): result = Vj + Vk, modulo 2^32. -/
def execAdd (rd rs1 rs2 : Reg) (s : State) : Out :=
  aluInstr (.add rd rs1 rs2) (aluForm (.reg rs1) (.reg rs2) rd) (fun j k _ => j + k) s

/-- SUB (41_alu.md R173): result = Vj - Vk, modulo 2^32. -/
def execSub (rd rs1 rs2 : Reg) (s : State) : Out :=
  aluInstr (.sub rd rs1 rs2) (aluForm (.reg rs1) (.reg rs2) rd) (fun j k _ => j - k) s

/-- SLL (41_alu.md R174): result = Vj << Vk[4:0]. -/
def execSll (rd rs1 rs2 : Reg) (s : State) : Out :=
  aluInstr (.sll rd rs1 rs2) (aluForm (.reg rs1) (.reg rs2) rd) (fun j k _ => shiftLeft j k) s

/-- SLT (41_alu.md R175): result = 1 if signed(Vj) < signed(Vk), else 0. -/
def execSlt (rd rs1 rs2 : Reg) (s : State) : Out :=
  aluInstr (.slt rd rs1 rs2) (aluForm (.reg rs1) (.reg rs2) rd) (fun j k _ => bit (ltSigned j k)) s

/-- SLTU (41_alu.md R176): result = 1 if unsigned(Vj) < unsigned(Vk), else 0. -/
def execSltu (rd rs1 rs2 : Reg) (s : State) : Out :=
  aluInstr (.sltu rd rs1 rs2) (aluForm (.reg rs1) (.reg rs2) rd) (fun j k _ => bit (ltUnsigned j k)) s

/-- XOR (41_alu.md R177): result = Vj ^ Vk. -/
def execXor (rd rs1 rs2 : Reg) (s : State) : Out :=
  aluInstr (.xor rd rs1 rs2) (aluForm (.reg rs1) (.reg rs2) rd) (fun j k _ => j ^^^ k) s

/-- SRL (41_alu.md R178): result = Vj >>u Vk[4:0]. -/
def execSrl (rd rs1 rs2 : Reg) (s : State) : Out :=
  aluInstr (.srl rd rs1 rs2) (aluForm (.reg rs1) (.reg rs2) rd) (fun j k _ => shiftRightLogical j k) s

/-- SRA (41_alu.md R179): result = Vj >>s Vk[4:0]. -/
def execSra (rd rs1 rs2 : Reg) (s : State) : Out :=
  aluInstr (.sra rd rs1 rs2) (aluForm (.reg rs1) (.reg rs2) rd) (fun j k _ => shiftRightArith j k) s

/-- OR (41_alu.md R180): result = Vj | Vk. -/
def execOr (rd rs1 rs2 : Reg) (s : State) : Out :=
  aluInstr (.or rd rs1 rs2) (aluForm (.reg rs1) (.reg rs2) rd) (fun j k _ => j ||| k) s

/-- AND (41_alu.md R181): result = Vj & Vk. -/
def execAnd (rd rs1 rs2 : Reg) (s : State) : Out :=
  aluInstr (.and rd rs1 rs2) (aluForm (.reg rs1) (.reg rs2) rd) (fun j k _ => j &&& k) s

end Sys2Proof.Machine
end

