-- ==== Sys2Proof/Machine/IntImm.lean ====
section
/-! DEFINITION. The register-immediate operations of opcode OP-IMM (41_alu.md R182 to R190). -/

namespace Sys2Proof.Machine

/-- ADDI (41_alu.md R182): result = Vj + Vk, modulo 2^32, Vk the immediate. -/
def execAddi (rd rs1 : Reg) (imm : Word) (s : State) : Out :=
  aluInstr (.addi rd rs1 imm) (aluForm (.reg rs1) (.const imm) rd) (fun j k _ => j + k) s

/-- SLTI (41_alu.md R183): result = 1 if signed(Vj) < signed(Vk), else 0, Vk the immediate. -/
def execSlti (rd rs1 : Reg) (imm : Word) (s : State) : Out :=
  aluInstr (.slti rd rs1 imm) (aluForm (.reg rs1) (.const imm) rd) (fun j k _ => bit (ltSigned j k)) s

/-- SLTIU (41_alu.md R184): result = 1 if unsigned(Vj) < unsigned(Vk), else 0, Vk the immediate. -/
def execSltiu (rd rs1 : Reg) (imm : Word) (s : State) : Out :=
  aluInstr (.sltiu rd rs1 imm) (aluForm (.reg rs1) (.const imm) rd) (fun j k _ => bit (ltUnsigned j k)) s

/-- XORI (41_alu.md R185): result = Vj ^ Vk, Vk the immediate. -/
def execXori (rd rs1 : Reg) (imm : Word) (s : State) : Out :=
  aluInstr (.xori rd rs1 imm) (aluForm (.reg rs1) (.const imm) rd) (fun j k _ => j ^^^ k) s

/-- ORI (41_alu.md R186): result = Vj | Vk, Vk the immediate. -/
def execOri (rd rs1 : Reg) (imm : Word) (s : State) : Out :=
  aluInstr (.ori rd rs1 imm) (aluForm (.reg rs1) (.const imm) rd) (fun j k _ => j ||| k) s

/-- ANDI (41_alu.md R187): result = Vj & Vk, Vk the immediate. -/
def execAndi (rd rs1 : Reg) (imm : Word) (s : State) : Out :=
  aluInstr (.andi rd rs1 imm) (aluForm (.reg rs1) (.const imm) rd) (fun j k _ => j &&& k) s

/-- SLLI (41_alu.md R188): result = Vj << Vk[4:0], Vk the zero-extended shamt. -/
def execSlli (rd rs1 : Reg) (shamt : BitVec 5) (s : State) : Out :=
  aluInstr (.slli rd rs1 shamt) (aluForm (.reg rs1) (.const (shamt.setWidth 32)) rd) (fun j k _ => shiftLeft j k) s

/-- SRLI (41_alu.md R189): result = Vj >>u Vk[4:0], Vk the zero-extended shamt. -/
def execSrli (rd rs1 : Reg) (shamt : BitVec 5) (s : State) : Out :=
  aluInstr (.srli rd rs1 shamt) (aluForm (.reg rs1) (.const (shamt.setWidth 32)) rd) (fun j k _ => shiftRightLogical j k) s

/-- SRAI (41_alu.md R190): result = Vj >>s Vk[4:0], Vk the zero-extended shamt. -/
def execSrai (rd rs1 : Reg) (shamt : BitVec 5) (s : State) : Out :=
  aluInstr (.srai rd rs1 shamt) (aluForm (.reg rs1) (.const (shamt.setWidth 32)) rd) (fun j k _ => shiftRightArith j k) s

end Sys2Proof.Machine
end

