-- ==== Sys2Proof/Machine/Control.lean ====
section
/-! DEFINITION. Upper immediates, jumps and conditional branches (41_alu.md R191 to R200). -/

namespace Sys2Proof.Machine

/-- LUI (41_alu.md R191): result = Vk, the immediate. -/
def execLui (rd : Reg) (imm : Word) (s : State) : Out :=
  aluInstr (.lui rd imm) (aluForm (.const 0) (.const imm) rd) (fun _ k _ => k) s

/-- AUIPC (R192): result = Vj + Vk, the own address plus the immediate. -/
def execAuipc (rd : Reg) (imm : Word) (s : State) : Out :=
  aluInstr (.auipc rd imm) (aluForm .pc (.const imm) rd) (fun j k _ => j + k) s

/-- JAL (R193): fetch jumps at once, result = Vj + 4, the link address; it never squashes. -/
def execJal (rd : Reg) (imm : Word) (s : State) : Out :=
  life (fetchJal (.jal rd imm) imm) (issueAs (aluForm .pc (.const imm) rd)) (aluEvaluate fun j _ _ => j + 4) noLoad
    commitOther s

/-- JALR (R194): fetch stalls until Vj is known, result = ins.pc + 4. The fetch stage resumes at (Vj + Vk) & ~1
(44_branch_fetch.md R328, `resumeTarget`). -/
def execJalr (rd rs1 : Reg) (imm : Word) (s : State) : Out :=
  life (fetchJalr (.jalr rd rs1 imm)) (issueJalr (aluForm (.reg rs1) (.const imm) rd)) (aluEvaluate fun _ _ p => p + 4)
    noLoad commitOther s

/-- BEQ (41_alu.md R195): taken when Vj = Vk. -/
def execBeq (rs1 rs2 : Reg) (imm : Word) (s : State) : Out :=
  branchInstr (.beq rs1 rs2 imm) rs1 rs2 imm takenEq s

/-- BNE (41_alu.md R196): taken when Vj ≠ Vk. -/
def execBne (rs1 rs2 : Reg) (imm : Word) (s : State) : Out :=
  branchInstr (.bne rs1 rs2 imm) rs1 rs2 imm takenNe s

/-- BLT (41_alu.md R197): taken when signed(Vj) < signed(Vk). -/
def execBlt (rs1 rs2 : Reg) (imm : Word) (s : State) : Out :=
  branchInstr (.blt rs1 rs2 imm) rs1 rs2 imm takenLt s

/-- BGE (41_alu.md R198): taken when signed(Vj) ≥ signed(Vk). -/
def execBge (rs1 rs2 : Reg) (imm : Word) (s : State) : Out :=
  branchInstr (.bge rs1 rs2 imm) rs1 rs2 imm takenGe s

/-- BLTU (41_alu.md R199): taken when unsigned(Vj) < unsigned(Vk). -/
def execBltu (rs1 rs2 : Reg) (imm : Word) (s : State) : Out :=
  branchInstr (.bltu rs1 rs2 imm) rs1 rs2 imm takenLtu s

/-- BGEU (41_alu.md R200): taken when unsigned(Vj) ≥ unsigned(Vk). -/
def execBgeu (rs1 rs2 : Reg) (imm : Word) (s : State) : Out :=
  branchInstr (.bgeu rs1 rs2 imm) rs1 rs2 imm takenGeu s

end Sys2Proof.Machine
end

