-- ==== Sys2Proof/Machine/System.lean ====
section
/-! DEFINITION. The system instructions and the fences (41_alu.md R201, R230, R231; 30_encoding.md R121). -/

namespace Sys2Proof.Machine

/-- ECALL (41_alu.md R201): destination x10, result ins.pc + 4, the next pc; the dispatcher runs at commit (46_commit.md
R375). Harvest sets value_ready in place of complete (45_cdb.md R352). -/
def execEcall (s : State) : Out :=
  life (fetchNext .ecall) (issueAs (aluForm (.const 0) (.const 0) 10)) (aluEvaluate fun _ _ p => p + 4) noLoad
    commitSyscall s

/-- EBREAK is refused at decode: DecodeFault (30_encoding.md R121). -/
def execEbreak (s : State) : Out := refusedLife s

/-- CSRRW is refused at decode: DecodeFault (30_encoding.md R121). -/
def execCsrrw (s : State) : Out := refusedLife s

/-- CSRRS is refused at decode: DecodeFault (30_encoding.md R121). -/
def execCsrrs (s : State) : Out := refusedLife s

/-- CSRRC is refused at decode: DecodeFault (30_encoding.md R121). -/
def execCsrrc (s : State) : Out := refusedLife s

/-- CSRRWI is refused at decode: DecodeFault (30_encoding.md R121). -/
def execCsrrwi (s : State) : Out := refusedLife s

/-- CSRRSI is refused at decode: DecodeFault (30_encoding.md R121). -/
def execCsrrsi (s : State) : Out := refusedLife s

/-- CSRRCI is refused at decode: DecodeFault (30_encoding.md R121). -/
def execCsrrci (s : State) : Out := refusedLife s

/-- FENCE (41_alu.md R230): result 0, nothing written, nothing ordered or flushed. -/
def execFence (rd rs1 : Reg) (fm pred succ : BitVec 4) (s : State) : Out :=
  aluInstr (.fence rd rs1 fm pred succ) (aluForm (.const 0) (.const 0) 0) (fun _ _ _ => 0) s

/-- FENCE.I (41_alu.md R231): result 0, nothing written, nothing ordered or flushed. -/
def execFenceI (rd rs1 : Reg) (imm : BitVec 12) (s : State) : Out :=
  aluInstr (.fenceI rd rs1 imm) (aluForm (.const 0) (.const 0) 0) (fun _ _ _ => 0) s

end Sys2Proof.Machine
end

