-- ==== Sys2Proof/Machine/MulDiv.lean ====
section
/-! DEFINITION. The M instructions (42_muldiv.md R242 to R250). -/

namespace Sys2Proof.Machine

/-- MUL (42_muldiv.md R242): the low word of Vj × Vk. -/
def execMul (rd rs1 rs2 : Reg) (s : State) : Out :=
  mulInstr (.mul rd rs1 rs2) rd rs1 rs2 (fun j k => j * k) s

/-- MULH (42_muldiv.md R243): the high word of signed × signed. -/
def execMulh (rd rs1 rs2 : Reg) (s : State) : Out :=
  mulInstr (.mulh rd rs1 rs2) rd rs1 rs2 mulHigh s

/-- MULHSU (42_muldiv.md R244): the high word of signed × unsigned. -/
def execMulhsu (rd rs1 rs2 : Reg) (s : State) : Out :=
  mulInstr (.mulhsu rd rs1 rs2) rd rs1 rs2 mulHighSU s

/-- MULHU (42_muldiv.md R245): the high word of unsigned × unsigned. -/
def execMulhu (rd rs1 rs2 : Reg) (s : State) : Out :=
  mulInstr (.mulhu rd rs1 rs2) rd rs1 rs2 mulHighU s

/-- DIV (42_muldiv.md R246): the signed quotient, rounded toward zero; corner cases by R250. -/
def execDiv (rd rs1 rs2 : Reg) (s : State) : Out :=
  divInstr (.div rd rs1 rs2) .div rd rs1 rs2 s

/-- DIVU (42_muldiv.md R247): the unsigned quotient; corner cases by R250. -/
def execDivu (rd rs1 rs2 : Reg) (s : State) : Out :=
  divInstr (.divu rd rs1 rs2) .divu rd rs1 rs2 s

/-- REM (42_muldiv.md R248): the signed remainder, with the sign of the dividend; corner cases by R250. -/
def execRem (rd rs1 rs2 : Reg) (s : State) : Out :=
  divInstr (.rem rd rs1 rs2) .rem rd rs1 rs2 s

/-- REMU (42_muldiv.md R249): the unsigned remainder; corner cases by R250. -/
def execRemu (rd rs1 rs2 : Reg) (s : State) : Out :=
  divInstr (.remu rd rs1 rs2) .remu rd rs1 rs2 s

end Sys2Proof.Machine
end

