-- ==== Sys2Proof/Machine/LoadStore.lean ====
section
/-! DEFINITION. Loads and stores (43_load_store_amo.md R283 to R290). -/

namespace Sys2Proof.Machine

/-- LB (43_load_store_amo.md R283): the byte at Vj + imm, sign-extended. -/
def execLb (rd rs1 : Reg) (imm : Word) (s : State) : Out :=
  loadInstr (.lb rd rs1 imm) .byte true rd rs1 imm s

/-- LH (43_load_store_amo.md R284): the half at Vj + imm, sign-extended. -/
def execLh (rd rs1 : Reg) (imm : Word) (s : State) : Out :=
  loadInstr (.lh rd rs1 imm) .half true rd rs1 imm s

/-- LW (43_load_store_amo.md R285): the word at Vj + imm. -/
def execLw (rd rs1 : Reg) (imm : Word) (s : State) : Out :=
  loadInstr (.lw rd rs1 imm) .word true rd rs1 imm s

/-- LBU (43_load_store_amo.md R286): the byte at Vj + imm, zero-extended. -/
def execLbu (rd rs1 : Reg) (imm : Word) (s : State) : Out :=
  loadInstr (.lbu rd rs1 imm) .byte false rd rs1 imm s

/-- LHU (43_load_store_amo.md R287): the half at Vj + imm, zero-extended. -/
def execLhu (rd rs1 : Reg) (imm : Word) (s : State) : Out :=
  loadInstr (.lhu rd rs1 imm) .half false rd rs1 imm s

/-- SB (43_load_store_amo.md R288): the low byte of rs2 to Vj + imm, at commit. -/
def execSb (rs1 rs2 : Reg) (imm : Word) (s : State) : Out :=
  storeInstr (.sb rs1 rs2 imm) .byte rs1 rs2 imm s

/-- SH (43_load_store_amo.md R289): the low half of rs2 to Vj + imm, at commit. -/
def execSh (rs1 rs2 : Reg) (imm : Word) (s : State) : Out :=
  storeInstr (.sh rs1 rs2 imm) .half rs1 rs2 imm s

/-- SW (43_load_store_amo.md R290): the low word of rs2 to Vj + imm, at commit. -/
def execSw (rs1 rs2 : Reg) (imm : Word) (s : State) : Out :=
  storeInstr (.sw rs1 rs2 imm) .word rs1 rs2 imm s

end Sys2Proof.Machine
end

