-- ==== Sys2Proof/Machine/Amo.lean ====
section
/-! DEFINITION. LR.W, SC.W and the nine AMOs (43_load_store_amo.md R291 to R301). -/

namespace Sys2Proof.Machine

/-- LR.W (43_load_store_amo.md R291): yields 0, reads no memory, makes no reservation (R304). -/
def execLrW (rd rs1 : Reg) (aq rl : BitVec 1) (s : State) : Out :=
  life (fetchNext (.lrW rd rs1 aq rl)) (issueAs (loadForm rs1 0 rd)) aguLoadReserved noLoad commitOther s

/-- SC.W (43_load_store_amo.md R292): always stores the source; rd receives SC_SUCCESS. -/
def execScW (rd rs1 rs2 : Reg) (aq rl : BitVec 1) (s : State) : Out :=
  amoInstr (.scW rd rs1 rs2 aq rl) rd rs1 rs2 (fun c _ _ => c.scSuccess) (fun _ src => src) s

/-- AMOSWAP.W (43_load_store_amo.md R293): memory <- src; rd receives the old word. -/
def execAmoswapW (rd rs1 rs2 : Reg) (aq rl : BitVec 1) (s : State) : Out :=
  amoInstr (.amoswapW rd rs1 rs2 aq rl) rd rs1 rs2 oldValue (fun _ src => src) s

/-- AMOADD.W (43_load_store_amo.md R294): memory <- old + src; rd receives the old word. -/
def execAmoaddW (rd rs1 rs2 : Reg) (aq rl : BitVec 1) (s : State) : Out :=
  amoInstr (.amoaddW rd rs1 rs2 aq rl) rd rs1 rs2 oldValue (fun old src => old + src) s

/-- AMOXOR.W (43_load_store_amo.md R295): memory <- old ^ src; rd receives the old word. -/
def execAmoxorW (rd rs1 rs2 : Reg) (aq rl : BitVec 1) (s : State) : Out :=
  amoInstr (.amoxorW rd rs1 rs2 aq rl) rd rs1 rs2 oldValue (fun old src => old ^^^ src) s

/-- AMOAND.W (43_load_store_amo.md R296): memory <- old & src; rd receives the old word. -/
def execAmoandW (rd rs1 rs2 : Reg) (aq rl : BitVec 1) (s : State) : Out :=
  amoInstr (.amoandW rd rs1 rs2 aq rl) rd rs1 rs2 oldValue (fun old src => old &&& src) s

/-- AMOOR.W (43_load_store_amo.md R297): memory <- old | src; rd receives the old word. -/
def execAmoorW (rd rs1 rs2 : Reg) (aq rl : BitVec 1) (s : State) : Out :=
  amoInstr (.amoorW rd rs1 rs2 aq rl) rd rs1 rs2 oldValue (fun old src => old ||| src) s

/-- AMOMIN.W (43_load_store_amo.md R298): memory <- the signed minimum; rd receives the old word. -/
def execAmominW (rd rs1 rs2 : Reg) (aq rl : BitVec 1) (s : State) : Out :=
  amoInstr (.amominW rd rs1 rs2 aq rl) rd rs1 rs2 oldValue minSigned s

/-- AMOMAX.W (43_load_store_amo.md R299): memory <- the signed maximum; rd receives the old word. -/
def execAmomaxW (rd rs1 rs2 : Reg) (aq rl : BitVec 1) (s : State) : Out :=
  amoInstr (.amomaxW rd rs1 rs2 aq rl) rd rs1 rs2 oldValue maxSigned s

/-- AMOMINU.W (43_load_store_amo.md R300): memory <- the unsigned minimum; rd receives the old word. -/
def execAmominuW (rd rs1 rs2 : Reg) (aq rl : BitVec 1) (s : State) : Out :=
  amoInstr (.amominuW rd rs1 rs2 aq rl) rd rs1 rs2 oldValue minUnsigned s

/-- AMOMAXU.W (43_load_store_amo.md R301): memory <- the unsigned maximum; rd receives the old word. -/
def execAmomaxuW (rd rs1 rs2 : Reg) (aq rl : BitVec 1) (s : State) : Out :=
  amoInstr (.amomaxuW rd rs1 rs2 aq rl) rd rs1 rs2 oldValue maxUnsigned s

end Sys2Proof.Machine
end

