-- ==== Sys2Proof/Machine/Float.lean ====
section
/-! DEFINITION. The suppressed RV32F instructions (41_alu.md R202 to R227, R232). -/

namespace Sys2Proof.Machine

/-- FLW (41_alu.md R202) is suppressed to NOP: no register, no memory, no fault. -/
def execFlw (s : State) : Out := nopLife s

/-- FSW (41_alu.md R203) is suppressed to NOP: no register, no memory, no fault. -/
def execFsw (s : State) : Out := nopLife s

/-- FMADD.S (41_alu.md R204) is suppressed to NOP: no register, no memory, no fault. -/
def execFmaddS (s : State) : Out := nopLife s

/-- FMSUB.S (41_alu.md R205) is suppressed to NOP: no register, no memory, no fault. -/
def execFmsubS (s : State) : Out := nopLife s

/-- FNMSUB.S (41_alu.md R206) is suppressed to NOP: no register, no memory, no fault. -/
def execFnmsubS (s : State) : Out := nopLife s

/-- FNMADD.S (41_alu.md R207) is suppressed to NOP: no register, no memory, no fault. -/
def execFnmaddS (s : State) : Out := nopLife s

/-- FADD.S (41_alu.md R208) is suppressed to NOP: no register, no memory, no fault. -/
def execFaddS (s : State) : Out := nopLife s

/-- FSUB.S (41_alu.md R209) is suppressed to NOP: no register, no memory, no fault. -/
def execFsubS (s : State) : Out := nopLife s

/-- FMUL.S (41_alu.md R210) is suppressed to NOP: no register, no memory, no fault. -/
def execFmulS (s : State) : Out := nopLife s

/-- FDIV.S (41_alu.md R211) is suppressed to NOP: no register, no memory, no fault. -/
def execFdivS (s : State) : Out := nopLife s

/-- FSQRT.S (41_alu.md R212) is suppressed to NOP: no register, no memory, no fault. -/
def execFsqrtS (s : State) : Out := nopLife s

/-- FSGNJ.S (41_alu.md R213) is suppressed to NOP: no register, no memory, no fault. -/
def execFsgnjS (s : State) : Out := nopLife s

/-- FSGNJN.S (41_alu.md R214) is suppressed to NOP: no register, no memory, no fault. -/
def execFsgnjnS (s : State) : Out := nopLife s

/-- FSGNJX.S (41_alu.md R215) is suppressed to NOP: no register, no memory, no fault. -/
def execFsgnjxS (s : State) : Out := nopLife s

/-- FMIN.S (41_alu.md R216) is suppressed to NOP: no register, no memory, no fault. -/
def execFminS (s : State) : Out := nopLife s

/-- FMAX.S (41_alu.md R217) is suppressed to NOP: no register, no memory, no fault. -/
def execFmaxS (s : State) : Out := nopLife s

/-- FCVT.W.S (41_alu.md R218) is suppressed to NOP: no register, no memory, no fault. -/
def execFcvtWS (s : State) : Out := nopLife s

/-- FCVT.WU.S (41_alu.md R219) is suppressed to NOP: no register, no memory, no fault. -/
def execFcvtWuS (s : State) : Out := nopLife s

/-- FMV.X.W (41_alu.md R220) is suppressed to NOP: no register, no memory, no fault. -/
def execFmvXW (s : State) : Out := nopLife s

/-- FEQ.S (41_alu.md R221) is suppressed to NOP: no register, no memory, no fault. -/
def execFeqS (s : State) : Out := nopLife s

/-- FLT.S (41_alu.md R222) is suppressed to NOP: no register, no memory, no fault. -/
def execFltS (s : State) : Out := nopLife s

/-- FLE.S (41_alu.md R223) is suppressed to NOP: no register, no memory, no fault. -/
def execFleS (s : State) : Out := nopLife s

/-- FCLASS.S (41_alu.md R224) is suppressed to NOP: no register, no memory, no fault. -/
def execFclassS (s : State) : Out := nopLife s

/-- FCVT.S.W (41_alu.md R225) is suppressed to NOP: no register, no memory, no fault. -/
def execFcvtSW (s : State) : Out := nopLife s

/-- FCVT.S.WU (41_alu.md R226) is suppressed to NOP: no register, no memory, no fault. -/
def execFcvtSWu (s : State) : Out := nopLife s

/-- FMV.W.X (41_alu.md R227) is suppressed to NOP: no register, no memory, no fault. -/
def execFmvWX (s : State) : Out := nopLife s

end Sys2Proof.Machine
end

