-- ==== Sys2Proof/Machine/Dispatch.lean ====
section
/-! DEFINITION. The dispatch from an instruction to its meaning, one arm a row of spec/opcode_table.json. -/

namespace Sys2Proof.Machine

-- What instruction i does in the stage of the tick that s.stage names.
def exec (i : Instr) (s : State) : Host.Outcome State Fault Refusal :=
  match i with
  -- Register-register operations, format R, opcode OP (41_alu.md R172 to R181).
  | .add rd rs1 rs2 => Sys2Proof.Machine.execAdd rd rs1 rs2 s
  | .sub rd rs1 rs2 => Sys2Proof.Machine.execSub rd rs1 rs2 s
  | .sll rd rs1 rs2 => Sys2Proof.Machine.execSll rd rs1 rs2 s
  | .slt rd rs1 rs2 => Sys2Proof.Machine.execSlt rd rs1 rs2 s
  | .sltu rd rs1 rs2 => Sys2Proof.Machine.execSltu rd rs1 rs2 s
  | .xor rd rs1 rs2 => Sys2Proof.Machine.execXor rd rs1 rs2 s
  | .srl rd rs1 rs2 => Sys2Proof.Machine.execSrl rd rs1 rs2 s
  | .sra rd rs1 rs2 => Sys2Proof.Machine.execSra rd rs1 rs2 s
  | .or rd rs1 rs2 => Sys2Proof.Machine.execOr rd rs1 rs2 s
  | .and rd rs1 rs2 => Sys2Proof.Machine.execAnd rd rs1 rs2 s
  -- Register-immediate operations, format I, opcode OP-IMM (R182 to R190).
  | .addi rd rs1 imm => Sys2Proof.Machine.execAddi rd rs1 imm s
  | .slti rd rs1 imm => Sys2Proof.Machine.execSlti rd rs1 imm s
  | .sltiu rd rs1 imm => Sys2Proof.Machine.execSltiu rd rs1 imm s
  | .xori rd rs1 imm => Sys2Proof.Machine.execXori rd rs1 imm s
  | .ori rd rs1 imm => Sys2Proof.Machine.execOri rd rs1 imm s
  | .andi rd rs1 imm => Sys2Proof.Machine.execAndi rd rs1 imm s
  | .slli rd rs1 shamt => Sys2Proof.Machine.execSlli rd rs1 shamt s
  | .srli rd rs1 shamt => Sys2Proof.Machine.execSrli rd rs1 shamt s
  | .srai rd rs1 shamt => Sys2Proof.Machine.execSrai rd rs1 shamt s
  -- Upper-immediate operations and jumps (R191 to R194).
  | .lui rd imm => Sys2Proof.Machine.execLui rd imm s
  | .auipc rd imm => Sys2Proof.Machine.execAuipc rd imm s
  | .jal rd imm => Sys2Proof.Machine.execJal rd imm s
  | .jalr rd rs1 imm => Sys2Proof.Machine.execJalr rd rs1 imm s
  -- Conditional branches, format B (R195 to R200).
  | .beq rs1 rs2 imm => Sys2Proof.Machine.execBeq rs1 rs2 imm s
  | .bne rs1 rs2 imm => Sys2Proof.Machine.execBne rs1 rs2 imm s
  | .blt rs1 rs2 imm => Sys2Proof.Machine.execBlt rs1 rs2 imm s
  | .bge rs1 rs2 imm => Sys2Proof.Machine.execBge rs1 rs2 imm s
  | .bltu rs1 rs2 imm => Sys2Proof.Machine.execBltu rs1 rs2 imm s
  | .bgeu rs1 rs2 imm => Sys2Proof.Machine.execBgeu rs1 rs2 imm s
  -- System instructions: ECALL runs (R201); the other seven are refused at decode (30_encoding.md R121).
  | .ecall => Sys2Proof.Machine.execEcall s
  | .ebreak => Sys2Proof.Machine.execEbreak s
  | .csrrw _ _ _ => Sys2Proof.Machine.execCsrrw s
  | .csrrs _ _ _ => Sys2Proof.Machine.execCsrrs s
  | .csrrc _ _ _ => Sys2Proof.Machine.execCsrrc s
  | .csrrwi _ _ _ => Sys2Proof.Machine.execCsrrwi s
  | .csrrsi _ _ _ => Sys2Proof.Machine.execCsrrsi s
  | .csrrci _ _ _ => Sys2Proof.Machine.execCsrrci s
  -- Fences (R230, R231).
  | .fence rd rs1 fm pred succ => Sys2Proof.Machine.execFence rd rs1 fm pred succ s
  | .fenceI rd rs1 imm => Sys2Proof.Machine.execFenceI rd rs1 imm s
  -- Multiply, divide, remainder (42_muldiv.md R242 to R249).
  | .mul rd rs1 rs2 => Sys2Proof.Machine.execMul rd rs1 rs2 s
  | .mulh rd rs1 rs2 => Sys2Proof.Machine.execMulh rd rs1 rs2 s
  | .mulhsu rd rs1 rs2 => Sys2Proof.Machine.execMulhsu rd rs1 rs2 s
  | .mulhu rd rs1 rs2 => Sys2Proof.Machine.execMulhu rd rs1 rs2 s
  | .div rd rs1 rs2 => Sys2Proof.Machine.execDiv rd rs1 rs2 s
  | .divu rd rs1 rs2 => Sys2Proof.Machine.execDivu rd rs1 rs2 s
  | .rem rd rs1 rs2 => Sys2Proof.Machine.execRem rd rs1 rs2 s
  | .remu rd rs1 rs2 => Sys2Proof.Machine.execRemu rd rs1 rs2 s
  -- Loads (43_load_store_amo.md R283 to R287).
  | .lb rd rs1 imm => Sys2Proof.Machine.execLb rd rs1 imm s
  | .lh rd rs1 imm => Sys2Proof.Machine.execLh rd rs1 imm s
  | .lw rd rs1 imm => Sys2Proof.Machine.execLw rd rs1 imm s
  | .lbu rd rs1 imm => Sys2Proof.Machine.execLbu rd rs1 imm s
  | .lhu rd rs1 imm => Sys2Proof.Machine.execLhu rd rs1 imm s
  -- Stores (R288 to R290).
  | .sb rs1 rs2 imm => Sys2Proof.Machine.execSb rs1 rs2 imm s
  | .sh rs1 rs2 imm => Sys2Proof.Machine.execSh rs1 rs2 imm s
  | .sw rs1 rs2 imm => Sys2Proof.Machine.execSw rs1 rs2 imm s
  -- Atomics (R291 to R301).
  | .lrW rd rs1 aq rl => Sys2Proof.Machine.execLrW rd rs1 aq rl s
  | .scW rd rs1 rs2 aq rl => Sys2Proof.Machine.execScW rd rs1 rs2 aq rl s
  | .amoswapW rd rs1 rs2 aq rl => Sys2Proof.Machine.execAmoswapW rd rs1 rs2 aq rl s
  | .amoaddW rd rs1 rs2 aq rl => Sys2Proof.Machine.execAmoaddW rd rs1 rs2 aq rl s
  | .amoxorW rd rs1 rs2 aq rl => Sys2Proof.Machine.execAmoxorW rd rs1 rs2 aq rl s
  | .amoandW rd rs1 rs2 aq rl => Sys2Proof.Machine.execAmoandW rd rs1 rs2 aq rl s
  | .amoorW rd rs1 rs2 aq rl => Sys2Proof.Machine.execAmoorW rd rs1 rs2 aq rl s
  | .amominW rd rs1 rs2 aq rl => Sys2Proof.Machine.execAmominW rd rs1 rs2 aq rl s
  | .amomaxW rd rs1 rs2 aq rl => Sys2Proof.Machine.execAmomaxW rd rs1 rs2 aq rl s
  | .amominuW rd rs1 rs2 aq rl => Sys2Proof.Machine.execAmominuW rd rs1 rs2 aq rl s
  | .amomaxuW rd rs1 rs2 aq rl => Sys2Proof.Machine.execAmomaxuW rd rs1 rs2 aq rl s
  -- RV32F, suppressed to the internal NOP at fetch (41_alu.md R202 to R227, R232).
  | .flw _ _ _ => Sys2Proof.Machine.execFlw s
  | .fsw _ _ _ => Sys2Proof.Machine.execFsw s
  | .fmaddS _ _ _ _ _ => Sys2Proof.Machine.execFmaddS s
  | .fmsubS _ _ _ _ _ => Sys2Proof.Machine.execFmsubS s
  | .fnmsubS _ _ _ _ _ => Sys2Proof.Machine.execFnmsubS s
  | .fnmaddS _ _ _ _ _ => Sys2Proof.Machine.execFnmaddS s
  | .faddS _ _ _ _ => Sys2Proof.Machine.execFaddS s
  | .fsubS _ _ _ _ => Sys2Proof.Machine.execFsubS s
  | .fmulS _ _ _ _ => Sys2Proof.Machine.execFmulS s
  | .fdivS _ _ _ _ => Sys2Proof.Machine.execFdivS s
  | .fsqrtS _ _ _ => Sys2Proof.Machine.execFsqrtS s
  | .fsgnjS _ _ _ => Sys2Proof.Machine.execFsgnjS s
  | .fsgnjnS _ _ _ => Sys2Proof.Machine.execFsgnjnS s
  | .fsgnjxS _ _ _ => Sys2Proof.Machine.execFsgnjxS s
  | .fminS _ _ _ => Sys2Proof.Machine.execFminS s
  | .fmaxS _ _ _ => Sys2Proof.Machine.execFmaxS s
  | .fcvtWS _ _ _ => Sys2Proof.Machine.execFcvtWS s
  | .fcvtWuS _ _ _ => Sys2Proof.Machine.execFcvtWuS s
  | .fmvXW _ _ => Sys2Proof.Machine.execFmvXW s
  | .feqS _ _ _ => Sys2Proof.Machine.execFeqS s
  | .fltS _ _ _ => Sys2Proof.Machine.execFltS s
  | .fleS _ _ _ => Sys2Proof.Machine.execFleS s
  | .fclassS _ _ => Sys2Proof.Machine.execFclassS s
  | .fcvtSW _ _ _ => Sys2Proof.Machine.execFcvtSW s
  | .fcvtSWu _ _ _ => Sys2Proof.Machine.execFcvtSWu s
  | .fmvWX _ _ => Sys2Proof.Machine.execFmvWX s

end Sys2Proof.Machine
end

