-- ==== Sys2Proof/Machine/Stages.lean ====
section
/-! DEFINITION. The five stages of a tick (40_cycle_issue_rename.md R130 to R135): each brings instructions to exec
at its own stage, and the broadcast stage moves results (45_cdb.md R362). -/

namespace Sys2Proof.Machine

/-- The meaning of a record's op. NOP is no row of the table; its meaning is the suppressed instructions'. -/
def execOp (o : Op) (s : State) : Out :=
  match o with
  | .ins i => exec i s
  | .nop => nopLife s

/-- Put the model's `stage` back to its resting value. -/
def rest (o : Out) : Out :=
  match o with
  | .next s => .next { s with stage := .fetch }
  | .fault r => .fault r
  | .refused r => .refused r

/-- Call an instruction's meaning at a stage. -/
def execAt (p : Stage) (o : Op) (s : State) : Out := rest (execOp o { s with stage := p })

/-! ### Commit (46_commit.md R370) -/

/-- At most one entry, the head, by its class. -/
def commitStage (s : State) : Out :=
  match s.rob with
  | [] => .next s
  | h :: _ => execAt .commit h.ins.op s

/-! ### Broadcast (45_cdb.md R350 to R362) -/

/-- Where a harvested entry stands. -/
inductive HarvestFrom where
  | alu | md | agu | lb
deriving DecidableEq, Repr

/-- An element of the harvest set H (R350). -/
structure Harvested where
  src : HarvestFrom
  tag : Tag
  value : Word
deriving DecidableEq, Repr

def aluDone (e : RsEntry) : Bool := decide (1 ≤ e.progress)
def mdDone (c : Config) (e : RsEntry) : Bool := decide (latency c e.ins.op ≤ e.progress)
def aguDone (e : RsEntry) : Bool := isLoadReserved e.ins.op && decide (1 ≤ e.progress)
def lbDone (c : Config) (l : LbEntry) : Bool := decide (c.cacheLat ≤ l.progress)

/-- H: every harvestable entry present when the stage begins, in the order of R362. -/
def harvestSet (s : State) : List Harvested :=
  (s.rsAlu.filter aluDone).map (fun e => ⟨.alu, e.dest, e.result⟩) ++
  (s.rsMd.filter (mdDone s.cfg)).map (fun e => ⟨.md, e.dest, e.result⟩) ++
  (s.rsAgu.filter aguDone).map (fun e => ⟨.agu, e.dest, e.result⟩) ++
  (s.lb.filter (lbDone s.cfg)).map (fun l => ⟨.lb, l.owner, l.result⟩)

/-- A harvested entry leaves its pool (R351). -/
def removeHarvested (x : Harvested) (s : State) : State :=
  match x.src with
  | .alu => { s with rsAlu := s.rsAlu.eraseP fun e => e.dest == x.tag && aluDone e }
  | .md => { s with rsMd := s.rsMd.eraseP fun e => e.dest == x.tag && mdDone s.cfg e }
  | .agu => { s with rsAgu := s.rsAgu.eraseP fun e => e.dest == x.tag && aguDone e }
  | .lb => { s with lb := s.lb.eraseP fun l => l.owner == x.tag && lbDone s.cfg l }

/-- Mark the owning entry (R352): complete, or value_ready for an ECALL. -/
def markEntry (v : Word) (h : RobEntry) : RobEntry :=
  if isSyscall h.ins.op then { h with valueReady := true, result := v } else { h with complete := true, result := v }

/-- The message of a harvested result (R353): none for dest x0 and for an ECALL. -/
def messageOf (h : RobEntry) (x : Harvested) : List CdbMsg :=
  if h.dest ≠ 0 ∧ isSyscall h.ins.op = false then [⟨x.tag, x.value⟩] else []

/-- The harvest loop (R362). A tag that names no entry raises StaleTag and ends it; what was harvested before stays
(log entry 17). -/
def harvestAll : List Harvested → State → List CdbMsg → State × List CdbMsg
  | [], s, ms => (s, ms)
  | x :: xs, s, ms =>
    let s1 := removeHarvested x s
    match robAt s1 x.tag with
    | none => (raise (.staleTag x.tag) s1, ms)
    | some h => harvestAll xs (updateRob x.tag (markEntry x.value) s1) (ms ++ messageOf h x)

/-- A message resolves the waiting slots of a reservation-station entry (R356). -/
def resolveRs (m : CdbMsg) (e : RsEntry) : RsEntry :=
  let e1 := if e.qj = m.tag then { e with vj := m.value, qj := 0 } else e
  if e1.qk = m.tag then { e1 with vk := m.value, qk := 0 } else e1

/-- A message resolves a store's data on its reorder-buffer entry (R357). -/
def resolveRob (m : CdbMsg) (h : RobEntry) : RobEntry :=
  if h.storeQ = m.tag then { h with wb := m.value, storeQ := 0, valueReady := true } else h

/-- A message reaches the three pools and the reorder buffer; a load-buffer entry holds no tag, so nothing changes
there (R355, R358). -/
def deliver (s : State) (m : CdbMsg) : State :=
  { s with
    rsAlu := s.rsAlu.map (resolveRs m)
    rsMd := s.rsMd.map (resolveRs m)
    rsAgu := s.rsAgu.map (resolveRs m)
    rob := s.rob.map (resolveRob m) }

/-- All harvests first, then all messages (R354). -/
def broadcastStage (s : State) : Out :=
  let (s1, ms) := harvestAll (harvestSet s) s []
  if s1.status = .running then .next (ms.foldl deliver s1) else .next s1

/-! ### Execute (R135) -/

/-- A unit's step: every entry given, in that order, each through exec at its own stage. -/
def runEntries (stageOf : Tag → Stage) : List (Tag × Op) → State → Out
  | [], s => .next s
  | (t, o) :: rest, s => andThen (execAt (stageOf t) o s) (runEntries stageOf rest)

/-- The entries of a pool, with their instructions. -/
def poolWork (es : List RsEntry) : List (Tag × Op) := es.map fun e => (e.dest, e.ins.op)

def aluStep (s : State) : Out := runEntries .execute (poolWork s.rsAlu) s
def mdStep (s : State) : Out := runEntries .execute (poolWork s.rsMd) s
def aguStep (s : State) : Out := runEntries .execute (poolWork s.rsAgu) s

/-- The load-buffer step, oldest owner first; it sees the entries address generation has just made (R135, R271). -/
def lbStep (s : State) : Out := runEntries .load (s.lb.map fun l => (l.owner, l.ins.op)) s

/-- ALU, MULDIV, address generation, load buffer. -/
def executeStage (s : State) : Out := andThen (andThen (andThen (aluStep s) mdStep) aguStep) lbStep

/-! ### Issue (R140) -/

/-- At most one instruction, the head of iq. -/
def issueStage (s : State) : Out :=
  match s.iq with
  | [] => .next s
  | r :: _ => execAt .issue r.op s

/-! ### Fetch (44_branch_fetch.md R320, R321, R328) -/

/-- resume_target(T) (R328): the JALR's target once its base is known. -/
def resumeTarget (e : RsEntry) : Option Word := if e.qj = 0 then some (jalrTarget e.vj e.vk) else none

/-- Read the word at pc, decode it, and do what its instruction does at fetch (R320 to R322). -/
def fetchHere (s : State) : Out :=
  match accessFault s.cfg s.pc 4 with
  | some f => .next (raise f s)
  | none =>
    match decodeWord (fetchedWord s) with
    | .error _ => .next (raise (.decodeFault s.pc (fetchedWord s)) s)
    | .ok i => execAt .fetch (.ins i) s

/-- The fetch stage: the JALR stall first (R320, R328). -/
def fetchStage (s : State) : Out :=
  match s.jalrWait with
  | .none => fetchHere s
  | .unissued => .next s
  | .waiting t =>
    match s.rsAlu.find? fun e => e.dest == t with
    | none => .next (raise (.staleTag t) s)
    | some e =>
      match resumeTarget e with
      | none => .next s
      | some target => fetchHere { s with pc := target, jalrWait := .none }

/-! ### The tick (R130) -/

/-- The first four stages: everything of the tick that comes before fetch. -/
def beforeFetch (s : State) : Out := andThen (andThen (andThen (commitStage s) broadcastStage) executeStage) issueStage

/-- cycle <- cycle + 1, at the end of a tick that completes (R133). -/
def endTick (s : State) : Out := .next { s with cycle := s.cycle + 1 }

/-- One tick. -/
def tick (s : State) : Out := andThen (andThen (beforeFetch s) fetchStage) endTick

/-- The fetch pc as the fetch stage of the next tick will find it: after that tick's commit, and after a JALR has
resumed. Where fetch stalls, the pc it would have. -/
def nextFetchPc (s : State) : Word :=
  match beforeFetch s with
  | .next p =>
    match p.jalrWait with
    | .waiting t =>
      match p.rsAlu.find? fun e => e.dest == t with
      | some e => (resumeTarget e).getD p.pc
      | none => p.pc
    | .none => p.pc
    | .unissued => p.pc
  | .fault _ => s.pc
  | .refused _ => s.pc

/-- Store an instruction word where the next tick fetches: the loader's work for one word (log entry 13). -/
def placeWord (s : State) (w : Word) : State := { s with mem := memWrite s.mem (nextFetchPc s) 4 w }

end Sys2Proof.Machine
end

