-- ==== Sys2Proof/Machine/Step.lean ====
section
/-! DEFINITION. One step of the machine: one tick (40_cycle_issue_rename.md R130). -/

namespace Sys2Proof.Machine

/-- Only Running takes ticks (10_state.md R44). A faulted run answers its fault, an exited run is refused. -/
def step (s : State) : Host.Outcome State Fault Refusal :=
  match s.status with
  | .running => tick s
  | .faulted f => .fault f
  | .exited code => .refused (.exited code)

/-- `s` with the instruction of the low `nbits` bits of `w` stored where step fetches its next instruction. -/
def State.withFetchWord (s : State) (nbits w : Nat) : State := placeWord s (BitVec.ofNat 32 (w % 2 ^ nbits))

end Sys2Proof.Machine
end

