-- ==== Sys2Proof/Safety.lean ====
section
/-! DEFINITION. What counts as a good state and a safe run, in the terms the statements use: the invariants of
10_state.md R46, an instruction alone in the core, and the in-order value of an instruction. -/

namespace Sys2Proof.Machine

/-! ### Invariants (10_state.md R46) -/

/-- R46 (5), R21: x0 holds 0 and is never claimed. -/
abbrev ZeroRegister (s : State) : Prop := s.regs[0] = 0 ∧ s.rst[0].busy = false

/-- R46 (4), R28: tags rise strictly from head to tail, none is 0, and every tag in use is below the next one. -/
abbrev TagsInOrder (s : State) : Prop :=
  s.rob.Pairwise (fun a b => a.tag < b.tag) ∧ (∀ h ∈ s.rob, 1 ≤ h.tag ∧ h.tag < s.nextTag) ∧ 1 ≤ s.nextTag

/-- A reservation-station entry of one of the three pools. -/
abbrev InPool (s : State) (e : RsEntry) : Prop := e ∈ s.rsAlu ∨ e ∈ s.rsMd ∨ e ∈ s.rsAgu

/-- The tag names a present entry. -/
abbrev TagPresent (s : State) (t : Tag) : Prop := ∃ h ∈ s.rob, h.tag = t

/-- R46 (1): a busy register's tag names a present entry whose destination is that register. -/
abbrev BusyOwned (s : State) : Prop :=
  ∀ r : Reg, (rstAt s r).busy = true → ∃ h ∈ s.rob, h.tag = (rstAt s r).tag ∧ h.dest = r

/-- R46 (2): a pending tag names a present producer that has a destination and is not complete. -/
abbrev PendingProduced (s : State) : Prop :=
  (∀ e, InPool s e → ∀ q, (q = e.qj ∨ q = e.qk) → q ≠ 0 →
    ∃ h ∈ s.rob, h.tag = q ∧ h.complete = false ∧ h.dest ≠ 0) ∧
  (∀ g ∈ s.rob, g.storeQ ≠ 0 → ∃ h ∈ s.rob, h.tag = g.storeQ ∧ h.complete = false ∧ h.dest ≠ 0)

/-- R46 (3): every reservation-station and load-buffer entry belongs to a present entry. -/
abbrev OwnersPresent (s : State) : Prop :=
  (∀ e, InPool s e → TagPresent s e.dest) ∧ ∀ l ∈ s.lb, TagPresent s l.owner

/-- No tag has two entries in the pools and the load buffer: what one tick harvests has distinct tags (45_cdb.md R354). -/
abbrev OneUnitPerTag (s : State) : Prop :=
  (s.rsAlu.map (·.dest) ++ s.rsMd.map (·.dest) ++ s.rsAgu.map (·.dest) ++ s.lb.map (·.owner)).Nodup

/-- The stale-tag fault (60_exceptions.md R406). -/
abbrev IsStaleTag (st : RunStatus) : Prop := ∃ t, st = .faulted (.staleTag t)

/-- A run of `n` steps from the start of a run reaches `s`. -/
abbrev Reaches (cfg : Config) (entry : Word) (regs : RegFile) (mem : Memory) (n : Nat) (s : State) : Prop :=
  core.run n (State.launch cfg entry regs mem) = .next s

/-! ### One instruction alone in the core -/

/-- Nothing is in flight and no register is claimed: what a squash leaves, or the start of a run. -/
abbrev Quiet (s : State) : Prop :=
  s.status = .running ∧ s.stage = .fetch ∧ s.rob = [] ∧ s.rsAlu = [] ∧ s.rsMd = [] ∧ s.rsAgu = [] ∧ s.lb = [] ∧
    s.rst = clearAll ∧ s.jalrWait = .none ∧ 1 ≤ s.nextTag

/-- The record `r` is the only instruction in the core, about to issue. -/
abbrev Alone (s : State) (r : Decoded) : Prop := Quiet s ∧ s.iq = [r]

/-- A unit's step (40_cycle_issue_rename.md R135): the meaning of every entry's instruction in turn, called at the stage of that
entry's tag, for as long as the run goes on. -/
def visits (stageOf : Tag → Stage) (work : List (Tag × Op)) (s : State) : Out :=
  work.foldl (fun o w => andThen o fun u => rest (execOp w.2 { u with stage := stageOf w.1 })) (.next s)

/-- `n` ticks without their fetch stage: the front end delivers nothing more. -/
def backTicks : Nat → State → Out
  | 0, s => .next s
  | n + 1, s => andThen (andThen (beforeFetch s) endTick) (backTicks n)

/-- `s` after an instruction that was alone has retired in the last of `n` ticks and written `rd`: nothing else has
changed but the record's place in iq, the tag it took and the clock. -/
def retiredWith (s : State) (n : Nat) (rd : Reg) (v : Word) : State :=
  { s with
    regs := if rd = 0 then s.regs else s.regs.set rd.toNat v rd.isLt
    iq := [], nextTag := s.nextTag + 1, cycle := s.cycle + n }

/-- The destination and value of an ALU-pool instruction in program order (41_alu.md R172 to R194, R228), written with
the operators of 00_scope.md R10 on its own: none where the instruction is of another kind. -/
def inOrderValue (i : Instr) (x : Reg → Word) (pc : Word) : Option (Reg × Word) :=
  match i with
  | .add rd a b => some (rd, x a + x b)
  | .sub rd a b => some (rd, x a - x b)
  | .sll rd a b => some (rd, x a <<< ((x b).toNat % 32))
  | .slt rd a b => some (rd, if (x a).toInt < (x b).toInt then 1 else 0)
  | .sltu rd a b => some (rd, if (x a).toNat < (x b).toNat then 1 else 0)
  | .xor rd a b => some (rd, x a ^^^ x b)
  | .srl rd a b => some (rd, x a >>> ((x b).toNat % 32))
  | .sra rd a b => some (rd, (x a).sshiftRight ((x b).toNat % 32))
  | .or rd a b => some (rd, x a ||| x b)
  | .and rd a b => some (rd, x a &&& x b)
  | .addi rd a imm => some (rd, x a + imm)
  | .slti rd a imm => some (rd, if (x a).toInt < imm.toInt then 1 else 0)
  | .sltiu rd a imm => some (rd, if (x a).toNat < imm.toNat then 1 else 0)
  | .xori rd a imm => some (rd, x a ^^^ imm)
  | .ori rd a imm => some (rd, x a ||| imm)
  | .andi rd a imm => some (rd, x a &&& imm)
  | .slli rd a sh => some (rd, x a <<< sh.toNat)
  | .srli rd a sh => some (rd, x a >>> sh.toNat)
  | .srai rd a sh => some (rd, (x a).sshiftRight sh.toNat)
  | .lui rd imm => some (rd, imm)
  | .auipc rd imm => some (rd, pc + imm)
  | .jal rd _ => some (rd, pc + 4)
  | .jalr rd _ _ => some (rd, pc + 4)
  | .fence _ _ _ _ _ => some (0, 0)
  | .fenceI _ _ _ => some (0, 0)
  | _ => none

/-- The same for a record's op: the internal NOP writes nothing (41_alu.md R232). -/
def inOrderOp (o : Op) (x : Reg → Word) (pc : Word) : Option (Reg × Word) :=
  match o with
  | .ins i => inOrderValue i x pc
  | .nop => some (0, 0)

/-- The base, offset, width and extension of a load (43_load_store_amo.md R283 to R287). -/
def loadShape (i : Instr) : Option (Width × Bool × Reg × Reg × Word) :=
  match i with
  | .lb rd a imm => some (.byte, true, rd, a, imm)
  | .lh rd a imm => some (.half, true, rd, a, imm)
  | .lw rd a imm => some (.word, true, rd, a, imm)
  | .lbu rd a imm => some (.byte, false, rd, a, imm)
  | .lhu rd a imm => some (.half, false, rd, a, imm)
  | _ => none

/-- The width, base, data register and offset of a store (43_load_store_amo.md R288 to R290). -/
def storeShape (i : Instr) : Option (Width × Reg × Reg × Word) :=
  match i with
  | .sb a b imm => some (.byte, a, b, imm)
  | .sh a b imm => some (.half, a, b, imm)
  | .sw a b imm => some (.word, a, b, imm)
  | _ => none

/-- Whether a conditional branch is taken, and its offset (41_alu.md R195 to R200). -/
def branchShape (i : Instr) (x : Reg → Word) : Option (Bool × Word) :=
  match i with
  | .beq a b imm => some (decide (x a = x b), imm)
  | .bne a b imm => some (decide (x a ≠ x b), imm)
  | .blt a b imm => some (decide ((x a).toInt < (x b).toInt), imm)
  | .bge a b imm => some (decide ((x b).toInt ≤ (x a).toInt), imm)
  | .bltu a b imm => some (decide ((x a).toNat < (x b).toNat), imm)
  | .bgeu a b imm => some (decide ((x b).toNat ≤ (x a).toNat), imm)
  | _ => none

/-- What a load of this width and extension makes of the word read (43_load_store_amo.md R279), by number: the low bytes,
sign-extended for LB and LH. -/
def loadedValue (w : Width) (sign : Bool) (v : Word) : Word :=
  match w, sign with
  | .byte, true => BitVec.ofInt 32 ((BitVec.ofNat 8 v.toNat).toInt)
  | .half, true => BitVec.ofInt 32 ((BitVec.ofNat 16 v.toNat).toInt)
  | .byte, false => BitVec.ofNat 32 (v.toNat % 2 ^ 8)
  | .half, false => BitVec.ofNat 32 (v.toNat % 2 ^ 16)
  | .word, _ => v

/-! ### The tables of the spec, as functions of the instruction -/

/-- The ALU function of every ALU-pool instruction (41_alu.md R228): `j` and `k` are Vj and Vk, `p` is ins.pc. -/
def aluTable (i : Instr) (j k p : Word) : Option Word :=
  match i with
  | .add _ _ _ | .addi _ _ _ | .auipc _ _ => some (j + k)
  | .sub _ _ _ => some (j - k)
  | .sll _ _ _ | .slli _ _ _ => some (j <<< (k.toNat % 32))
  | .slt _ _ _ | .slti _ _ _ | .blt _ _ _ => some (if j.toInt < k.toInt then 1 else 0)
  | .sltu _ _ _ | .sltiu _ _ _ | .bltu _ _ _ => some (if j.toNat < k.toNat then 1 else 0)
  | .xor _ _ _ | .xori _ _ _ => some (j ^^^ k)
  | .srl _ _ _ | .srli _ _ _ => some (j >>> (k.toNat % 32))
  | .sra _ _ _ | .srai _ _ _ => some (j.sshiftRight (k.toNat % 32))
  | .or _ _ _ | .ori _ _ _ => some (j ||| k)
  | .and _ _ _ | .andi _ _ _ => some (j &&& k)
  | .lui _ _ => some k
  | .jal _ _ => some (j + 4)
  | .jalr _ _ _ | .ecall => some (p + 4)
  | .beq _ _ _ => some (if j = k then 1 else 0)
  | .bne _ _ _ => some (if j = k then 0 else 1)
  | .bge _ _ _ => some (if k.toInt ≤ j.toInt then 1 else 0)
  | .bgeu _ _ _ => some (if k.toNat ≤ j.toNat then 1 else 0)
  | .fence _ _ _ _ _ | .fenceI _ _ _ => some 0
  | _ => none

/-- The product a multiply makes of its operands: the low word, or the high word of the exact product (42_muldiv.md
R242 to R245). -/
def mulTable (i : Instr) (j k : Word) : Option Word :=
  match i with
  | .mul _ _ _ => some (BitVec.ofNat 32 (j.toNat * k.toNat))
  | .mulh _ _ _ => some (BitVec.ofInt 32 (j.toInt * k.toInt / 2 ^ 32))
  | .mulhsu _ _ _ => some (BitVec.ofInt 32 (j.toInt * (k.toNat : Int) / 2 ^ 32))
  | .mulhu _ _ _ => some (BitVec.ofNat 32 (j.toNat * k.toNat / 2 ^ 32))
  | _ => none

/-- Which of the four divisions an instruction is. -/
def divOpOf (i : Instr) : Option DivOp :=
  match i with
  | .div _ _ _ => some .div
  | .divu _ _ _ => some .divu
  | .rem _ _ _ => some .rem
  | .remu _ _ _ => some .remu
  | _ => none

/-- The quotient or remainder outside the corner cases (42_muldiv.md R246 to R249). -/
def divTable (op : DivOp) (j k : Word) : Word :=
  match op with
  | .div => BitVec.ofInt 32 (j.toInt.tdiv k.toInt)
  | .divu => BitVec.ofNat 32 (j.toNat / k.toNat)
  | .rem => BitVec.ofInt 32 (j.toInt - k.toInt * j.toInt.tdiv k.toInt)
  | .remu => BitVec.ofNat 32 (j.toNat % k.toNat)

/-- A division corner case (42_muldiv.md R250): a zero divisor, or the signed overflow of DIV and REM. -/
abbrev IsDivCorner (op : DivOp) (j k : Word) : Prop :=
  k = 0 ∨ ((op = .div ∨ op = .rem) ∧ j = 0x80000000#32 ∧ k = 0xffffffff#32)

/-- The write-back value of SC.W and the AMOs (43_load_store_amo.md R280). -/
def amoTable (i : Instr) (old src : Word) : Option Word :=
  match i with
  | .scW _ _ _ _ _ | .amoswapW _ _ _ _ _ => some src
  | .amoaddW _ _ _ _ _ => some (old + src)
  | .amoxorW _ _ _ _ _ => some (old ^^^ src)
  | .amoandW _ _ _ _ _ => some (old &&& src)
  | .amoorW _ _ _ _ _ => some (old ||| src)
  | .amominW _ _ _ _ _ => some (if old.toInt ≤ src.toInt then old else src)
  | .amomaxW _ _ _ _ _ => some (if old.toInt ≥ src.toInt then old else src)
  | .amominuW _ _ _ _ _ => some (if old.toNat ≤ src.toNat then old else src)
  | .amomaxuW _ _ _ _ _ => some (if old.toNat ≥ src.toNat then old else src)
  | _ => none

/-- What SC.W or an AMO leaves in its destination: SC_SUCCESS, or the word read (43_load_store_amo.md R281). -/
def amoResult (c : Config) (i : Instr) (old : Word) : Word :=
  match i with
  | .scW _ _ _ _ _ => c.scSuccess
  | _ => old

/-- The issue table (30_encoding.md R110, R111) for every executed instruction: pool, the two slots, A, destination,
and a store's data register. -/
def issueTable (i : Instr) : Option IssueForm :=
  match i with
  | .add rd a b | .sub rd a b | .sll rd a b | .slt rd a b | .sltu rd a b | .xor rd a b | .srl rd a b | .sra rd a b
  | .or rd a b | .and rd a b => some ⟨.alu, .reg a, .reg b, 0, rd, none⟩
  | .addi rd a imm | .slti rd a imm | .sltiu rd a imm | .xori rd a imm | .ori rd a imm | .andi rd a imm
  | .jalr rd a imm => some ⟨.alu, .reg a, .const imm, 0, rd, none⟩
  | .slli rd a sh | .srli rd a sh | .srai rd a sh => some ⟨.alu, .reg a, .const (sh.setWidth 32), 0, rd, none⟩
  | .lui rd imm => some ⟨.alu, .const 0, .const imm, 0, rd, none⟩
  | .auipc rd imm | .jal rd imm => some ⟨.alu, .pc, .const imm, 0, rd, none⟩
  | .beq a b _ | .bne a b _ | .blt a b _ | .bge a b _ | .bltu a b _ | .bgeu a b _ =>
    some ⟨.alu, .reg a, .reg b, 0, 0, none⟩
  | .ecall => some ⟨.alu, .const 0, .const 0, 0, 10, none⟩
  | .fence _ _ _ _ _ | .fenceI _ _ _ => some ⟨.alu, .const 0, .const 0, 0, 0, none⟩
  | .mul rd a b | .mulh rd a b | .mulhsu rd a b | .mulhu rd a b | .div rd a b | .divu rd a b | .rem rd a b
  | .remu rd a b => some ⟨.md, .reg a, .reg b, 0, rd, none⟩
  | .lb rd a imm | .lh rd a imm | .lw rd a imm | .lbu rd a imm | .lhu rd a imm =>
    some ⟨.agu, .reg a, .const 0, imm, rd, none⟩
  | .sb a b imm | .sh a b imm | .sw a b imm => some ⟨.agu, .reg a, .const 0, imm, 0, some b⟩
  | .lrW rd a _ _ => some ⟨.agu, .reg a, .const 0, 0, rd, none⟩
  | .scW rd a b _ _ | .amoswapW rd a b _ _ | .amoaddW rd a b _ _ | .amoxorW rd a b _ _ | .amoandW rd a b _ _
  | .amoorW rd a b _ _ | .amominW rd a b _ _ | .amomaxW rd a b _ _ | .amominuW rd a b _ _ | .amomaxuW rd a b _ _ =>
    some ⟨.agu, .reg a, .reg b, 0, rd, none⟩
  | _ => none

/-- The two jumps, which fetch treats apart (44_branch_fetch.md R325, R326). -/
def isJal (i : Instr) : Bool :=
  match i with
  | .jal _ _ => true
  | _ => false

def isJalr (i : Instr) : Bool :=
  match i with
  | .jalr _ _ _ => true
  | _ => false

/-- mapped(a) (20_memory.md R62). -/
abbrev IsMapped (c : Config) (a : Word) : Prop := ∃ r ∈ c.mapped, r.lo ≤ a ∧ a ≤ r.hi

/-- Every byte of the access is mapped, addresses modulo 2^32 (R62). -/
abbrev InRange (c : Config) (a : Word) (n : Nat) : Prop := ∀ k < n, IsMapped c (a + BitVec.ofNat 32 k)

/-- The access raises Misaligned (R64). -/
abbrev IsMisaligned (c : Config) (a : Word) (n : Nat) : Prop := c.misaligned = .fault ∧ a.toNat % n ≠ 0

/-- The access passes every check (R62, R64). -/
abbrev Allowed (c : Config) (a : Word) (n : Nat) : Prop := ¬ IsMisaligned c a n ∧ InRange c a n

/-! ### Places in a list, and the spec's words for them -/

/-- `x` is the first element of `l` for which `p` holds, with `before` in front of it and `after` behind it. -/
abbrev FirstWhere {α : Type} (p : α → Prop) (l before : List α) (x : α) (after : List α) : Prop :=
  l = before ++ x :: after ∧ p x ∧ ∀ y ∈ before, ¬ p y

/-- An entry with this tag whose operands are both resolved (40_cycle_issue_rename.md R152). -/
abbrev Eligible (t : Tag) (e : RsEntry) : Prop := e.dest = t ∧ e.qj = 0 ∧ e.qk = 0

/-- `h` is rob[t]: the first entry with that tag, `older` before it (10_state.md R34). -/
abbrev Owner (s : State) (t : Tag) (older : List RobEntry) (h : RobEntry) (younger : List RobEntry) : Prop :=
  FirstWhere (fun g => g.tag = t) s.rob older h younger

/-- The scan passes this entry by: it is no store-class entry, or it has another address (43_load_store_amo.md R273). -/
abbrev Passed (a : Word) (h : RobEntry) : Prop :=
  storeWidth h.ins.op = none ∨ (h.addrReady = true ∧ h.addr ≠ a)

/-- The load-buffer entry the load-buffer step works on for this tag (43_load_store_amo.md R270). -/
abbrev Working (s : State) (t : Tag) (l : LbEntry) : Prop := l.owner = t ∧ l.progress < s.cfg.cacheLat

/-- The register file once `v` is written to `r`: x0 is never written (10_state.md R21). -/
def regsWith (s : State) (r : Reg) (v : Word) : RegFile := if r = 0 then s.regs else s.regs.set r.toNat v r.isLt

/-- The register status table after release(r, t) (46_commit.md R377). -/
def rstReleased (s : State) (r : Reg) (t : Tag) : Vector RstEntry 32 :=
  if r ≠ 0 ∧ s.rst[r.toNat]'r.isLt = ⟨true, t⟩ then s.rst.set r.toNat ⟨false, 0⟩ r.isLt else s.rst

/-- The register status table after claim(r, t) (40_cycle_issue_rename.md R146). -/
def rstClaimed (s : State) (r : Reg) (t : Tag) : Vector RstEntry 32 :=
  if r = 0 then s.rst else s.rst.set r.toNat ⟨true, t⟩ r.isLt

/-- What a squash leaves of a state (46_commit.md R383, R385). -/
def squashed (s : State) : State where
  regs := s.regs
  pc := s.pc
  mem := s.mem
  rst := Vector.replicate 32 ⟨false, 0⟩
  iq := []
  jalrWait := .none
  rsAlu := []
  rsMd := []
  rsAgu := []
  rob := []
  lb := []
  nextTag := s.nextTag
  cycle := s.cycle
  pred := s.pred
  status := s.status
  cfg := s.cfg
  stage := s.stage

/-- The messages of a broadcast (45_cdb.md R353): one for each harvested result whose owner has a destination and is
no ECALL. -/
def messages (s : State) : List CdbMsg :=
  (harvestSet s).filterMap fun x =>
    match robAt s x.tag with
    | some h => if h.dest ≠ 0 ∧ isSyscall h.ins.op = false then some ⟨x.tag, x.value⟩ else none
    | none => none

/-- An operand slot after the messages (45_cdb.md R356): a message with its tag resolves it. -/
def heard (ms : List CdbMsg) (v : Word) (q : Tag) : Slot :=
  match ms.find? fun m => m.tag == q with
  | some m => ⟨m.value, 0⟩
  | none => ⟨v, q⟩

/-- A reservation-station entry after the messages (45_cdb.md R356). -/
def rsHeard (ms : List CdbMsg) (e : RsEntry) : RsEntry :=
  { e with
    vj := (heard ms e.vj e.qj).v, qj := (heard ms e.vj e.qj).q
    vk := (heard ms e.vk e.qk).v, qk := (heard ms e.vk e.qk).q }

/-- A reorder-buffer entry after the harvest (45_cdb.md R352). -/
def robHarvested (hs : List Harvested) (h : RobEntry) : RobEntry :=
  match hs.find? fun x => x.tag == h.tag with
  | some x =>
    if isSyscall h.ins.op then { h with valueReady := true, result := x.value }
    else { h with complete := true, result := x.value }
  | none => h

/-- A reorder-buffer entry after the messages (45_cdb.md R357). -/
def robHeard (ms : List CdbMsg) (h : RobEntry) : RobEntry :=
  match ms.find? fun m => m.tag == h.storeQ with
  | some m => { h with wb := m.value, storeQ := 0, valueReady := true }
  | none => h

end Sys2Proof.Machine
end

