-- ==== Sys2Proof/Machine/InOrder.lean ====
section
/-! DEFINITION. Sequential execution, one whole instruction a step, written on its own from the spec's tables
(Safety.lean), and the commits of a run of the core: the two sides of 70_reset_and_hazards.md R448. -/

namespace Sys2Proof.Machine

/-! ### The sequential machine -/

/-- All a sequential machine has: the registers, the pc of the next instruction, memory. -/
structure InOrder where
  regs : RegFile
  pc : Word
  mem : Memory
deriving DecidableEq, Repr

/-- One committed instruction, with the registers and memory its commit leaves (R448). -/
structure Committed where
  op : Op
  pc : Word
  regs : RegFile
  mem : Memory
deriving DecidableEq, Repr

/-- What a sequential step ends in. -/
inductive InOrderOut where
  /-- the instruction is done, and the machine goes on -/
  | next (op : Op) (q : InOrder)
  /-- the dispatcher ended the run (60_exceptions.md R411) -/
  | exit (code : Word)
  /-- a fatal condition (60_exceptions.md R400) -/
  | stop
deriving DecidableEq, Repr

/-- Read a register: x0 is 0 (10_state.md R21). -/
def InOrder.read (q : InOrder) (r : Reg) : Word := if r = 0 then 0 else q.regs[r.toNat]'r.isLt

/-- Write a register, x0 excepted (10_state.md R21). -/
def InOrder.write (q : InOrder) (r : Reg) (v : Word) : InOrder :=
  if r = 0 then q else { q with regs := q.regs.set r.toNat v r.isLt }

/-- The quotient or remainder of a corner case by DIV_CORNER (42_muldiv.md R250); none where it is a fault. -/
def cornerValue (corner : DivCorner) (op : DivOp) (j k : Word) : Option Word :=
  match corner, op with
  | .fault, _ => none
  | .host, _ => some (Config.hostDivision op j k)
  | .riscv, .div => some (if k = 0 then 0xffffffff#32 else 0x80000000#32)
  | .riscv, .divu => some 0xffffffff#32
  | .riscv, .rem => some (if k = 0 then j else 0)
  | .riscv, .remu => some j

/-- The value of an M instruction of the operands `j` and `k`; none for another instruction and for a DivFault. -/
def mdValue (c : Config) (i : Instr) (j k : Word) : Option Word :=
  match divOpOf i with
  | some op => if IsDivCorner op j k then cornerValue c.divCorner op j k else some (divTable op j k)
  | none => mulTable i j k

/-- Where sequential execution goes behind an instruction that is no branch. -/
def followingPc (i : Instr) (q : InOrder) : Word :=
  match i with
  | .jal _ imm => q.pc + imm
  | .jalr _ a imm => (q.read a + imm).extractLsb' 1 31 ++ 0#1
  | _ => q.pc + 4

/-- The effect of an instruction on registers and memory, pc left alone: none where it is a fatal condition. A
suppressed instruction does nothing, LR.W gives 0 and SC.W always stores (70_reset_and_hazards.md R442, cases 3 to 5). -/
def inOrderEffect (c : Config) (i : Instr) (q : InOrder) : Option InOrder :=
  match inOrderValue i q.read q.pc, loadShape i, storeShape i, issueTable i with
  | some (rd, v), _, _, _ => some (q.write rd v)
  | none, some (w, sign, rd, a, imm), _, _ =>
    if Allowed c (q.read a + imm) (widthBytes w) then
      some (q.write rd (loadedValue w sign (memRead q.mem (q.read a + imm) (widthBytes w))))
    else none
  | none, none, some (w, a, b, imm), _ =>
    if Allowed c (q.read a + imm) (widthBytes w) then
      some { q with mem := memWrite q.mem (q.read a + imm) (widthBytes w) (q.read b) }
    else none
  | none, none, none, some ⟨.md, .reg a, .reg b, _, rd, _⟩ => (mdValue c i (q.read a) (q.read b)).map (q.write rd)
  | none, none, none, some ⟨.agu, .reg a, .reg b, _, rd, _⟩ =>
    if Allowed c (q.read a) 4 then
      (amoTable i (memRead q.mem (q.read a) 4) (q.read b)).map fun new =>
        { q.write rd (amoResult c i (memRead q.mem (q.read a) 4)) with mem := memWrite q.mem (q.read a) 4 new }
    else none
  | none, none, none, some ⟨.agu, _, _, _, rd, _⟩ => some (q.write rd 0)
  | none, none, none, _ => if kindOf i = .suppressed then some q else none

/-- The state of the core as the dispatcher sees it in sequential execution, with clock 0 (60_exceptions.md R410). -/
def InOrder.forDispatch (c : Config) (q : InOrder) : State :=
  { State.reset with cfg := c, regs := q.regs, mem := q.mem }

/-- One instruction of sequential execution: the word at pc is read, decoded and carried out in full. -/
def inOrderStep (c : Config) (q : InOrder) : InOrderOut :=
  if Allowed c q.pc 4 then
    match decodeWord (memRead q.mem q.pc 4) with
    | .error _ => .stop
    | .ok .ecall =>
      match dispatch (q.forDispatch c) with
      | .resume v writes =>
        .next (.ins .ecall) { q.write 10 v with pc := q.pc + 4, mem := writeBytes q.mem writes }
      | .exit code => .exit code
      | .unimplemented _ => .stop
      | .memFault _ => .stop
    | .ok i =>
      match branchShape i q.read, inOrderEffect c i q with
      | some (taken, imm), _ => .next (.ins i) { q with pc := if taken then q.pc + imm else q.pc + 4 }
      | none, some u => .next (if kindOf i = .suppressed then .nop else .ins i) { u with pc := followingPc i q }
      | none, none => .stop
  else .stop

/-- The first `n` instructions of sequential execution, each with what it leaves, and the state behind them; none where
execution ends earlier. -/
def inOrderRun (c : Config) : Nat → InOrder → Option (List Committed × InOrder)
  | 0, q => some ([], q)
  | n + 1, q =>
    match inOrderStep c q with
    | .next op u => (inOrderRun c n u).map fun r => (⟨op, q.pc, u.regs, u.mem⟩ :: r.1, r.2)
    | .exit _ => none
    | .stop => none

/-! ### The commits of the core -/

/-- The state the commit stage of the next tick leaves. -/
def afterCommit (s : State) : State :=
  match commitStage s with
  | .next c => c
  | .fault _ => s
  | .refused _ => s

/-- What the commit stage of the next tick commits: the head, if it leaves the reorder buffer (DEDUCED, log entry 22). -/
def committedBy (s : State) : List Committed :=
  match s.rob with
  | [] => []
  | h :: _ =>
    if TagPresent (afterCommit s) h.tag then []
    else [⟨h.ins.op, h.ins.pc, (afterCommit s).regs, (afterCommit s).mem⟩]

/-- The instructions a run commits in its next `n` ticks, in order. -/
def commitTrace : Nat → State → List Committed
  | 0, _ => []
  | n + 1, s =>
    match step s with
    | .next t => committedBy s ++ commitTrace n t
    | .fault _ => []
    | .refused _ => []

/-! ### The cases of R442, as the model reads them (DEDUCED, log entry 22) -/

/-- The bytes of a load-buffer entry's access (43_load_store_amo.md R278). -/
def accessBytes (o : Op) : Nat :=
  match o with
  | .ins i =>
    match loadShape i with
    | some (w, _, _, _, _) => widthBytes w
    | none => 4
  | .nop => 4

/-- The n bytes from a and the m bytes from b have a byte in common, addresses modulo 2^32. -/
abbrev Overlap (a : Word) (n : Nat) (b : Word) (m : Nat) : Prop :=
  ∃ i < n, ∃ j < m, a + BitVec.ofNat 32 i = b + BitVec.ofNat 32 j

/-- R442 cases 1 and 2: an in-flight older store-class entry overlaps the bytes of this load, SC.W or AMO at another
address, or is narrower at the same one. -/
abbrev StoreHazard (l : LbEntry) (h : RobEntry) : Prop :=
  h.tag < l.owner ∧ h.addrReady = true ∧ ∃ ws ∈ storeWidth h.ins.op,
    Overlap h.addr (widthBytes ws) l.addr (accessBytes l.ins.op) ∧
    ¬ (h.addr = l.addr ∧ accessBytes l.ins.op ≤ widthBytes ws)

/-- R442 case 10: the commit of the next tick changes the word of an instruction that has been fetched and stays in
flight (R444). -/
abbrev StaleFetch (s : State) : Prop :=
  ∃ r ∈ (afterCommit s).iq ++ (afterCommit s).rob.map (·.ins), memRead (afterCommit s).mem r.pc 4 ≠ memRead s.mem r.pc 4

/-- The state is in none of the cases of R442 that let a run go on and commit something else than sequential
execution. Cases 3 to 5 are in inOrderEffect; 6 to 9 either end the run (R443) or give what the parameters say. -/
abbrev HazardFree (s : State) : Prop := (∀ l ∈ s.lb, ∀ h ∈ s.rob, ¬ StoreHazard l h) ∧ ¬ StaleFetch s

/-- The dispatcher's answers do not depend on the clock (R448). -/
abbrev ClockFree (c : Config) : Prop := ∀ (s : State) (k : Nat), s.cfg = c → dispatch { s with cycle := k } = dispatch s

/-- Two configurations that differ in nothing but the three latencies and the predictor (R448). -/
abbrev SameButTiming (c d : Config) : Prop :=
  d = { c with mulLat := d.mulLat, divLat := d.divLat, cacheLat := d.cacheLat, predictor := d.predictor }

/-- Every state of the first `n` ticks of a run is hazard free. -/
abbrev HazardFreeRun (cfg : Config) (entry : Word) (regs : RegFile) (mem : Memory) (n : Nat) : Prop :=
  ∀ k ≤ n, ∀ u, Reaches cfg entry regs mem k u → HazardFree u

end Sys2Proof.Machine
end

