-- ==== Sys2Proof/Certificates/Slice0/Obligations.lean ====
section
/-! DEFINITION. The statements for the provers. Each docstring names the rules it rests on. A state about which
nothing is assumed is any value of State, reachable or not. -/

open Sys2Proof Sys2Proof.Machine

/-! ### Encoding -/

/-- 30_encoding.md R92, R95, R97: decoding the word of a well-formed instruction gives it back. -/
def Obligations.DecodeEncode : Prop := ∀ i : Instr, i.wf = true → decodeWord (encode i) = .ok i

/-- The other way: a word that decodes is the word of the instruction it decodes to, so no bit of it is dropped, and the
operands are well formed (R92 to R95). -/
def Obligations.EncodeDecode : Prop :=
  ∀ (w : Word) (i : Instr), decodeWord w = .ok i → encode i = w ∧ i.wf = true

/-- R90, R97: a word decodes to an instruction of a row exactly when it matches that row's match and mask; so at most one
row matches a word. -/
def Obligations.TableMatchesDecoder : Prop :=
  ∀ w : Word, ∀ row ∈ opcodeTable,
    ((∃ i, decodeWord w = .ok i ∧ i.mnemonic = row.mnemonic) ↔ w &&& row.mask = row.bits) ∧
    (∀ other ∈ opcodeTable, w &&& row.mask = row.bits → w &&& other.mask = other.bits → other = row)

/-- R92, R95, R97 on eight words written out from the table and the immediate layouts. -/
def Obligations.DecodedWords : Prop :=
  decodeWord 0x003100b3#32 = .ok (.add 1 2 3) ∧
  decodeWord 0xfff28293#32 = .ok (.addi 5 5 0xffffffff#32) ∧
  decodeWord 0xfe209ee3#32 = .ok (.bne 1 2 0xfffffffc#32) ∧
  decodeWord 0x008000ef#32 = .ok (.jal 1 8) ∧
  decodeWord 0x00532023#32 = .ok (.sw 6 5 0) ∧
  decodeWord 0x025353b3#32 = .ok (.divu 7 6 5) ∧
  decodeWord 0x1e5323af#32 = .ok (.scW 7 6 5 1 1) ∧
  decodeWord 0x003170d3#32 = .ok (.faddS 1 2 3 7)

/-! ### The tick -/

/-- 40_cycle_issue_rename.md R130; 44_branch_fetch.md R320 to R322: the step of a state whose bytes at the fetch pc decode
to `i` runs exec of `i`. First where nothing is in flight (the first tick of a run, the tick after a squash): exec
at that very state. Then in general: exec at the state that the four stages before fetch leave. -/
def Obligations.StepRunsDecoded : Prop :=
  ∀ (s p : State) (i : Instr),
    (Quiet s → s.iq = [] → Allowed s.cfg s.pc 4 → decodeWord (memRead s.mem s.pc 4) = .ok i →
      step s = andThen (exec i s) endTick) ∧
    (s.status = .running → beforeFetch s = .next p → p.status = .running → p.jalrWait = .none →
      Allowed p.cfg p.pc 4 → decodeWord (memRead p.mem p.pc 4) = .ok i →
      step s = andThen (rest (exec i { p with stage := .fetch })) endTick)

/-- R130: one tick runs commit, broadcast, execute, issue and fetch in this order, each only while the status is
Running, and then counts the cycle; commit and issue call exec for the head they work on (46_commit.md R370; R140).
Execute calls it for every entry of rs_alu, then of rs_md, then of rs_agu, then of the load buffer as address generation
left it, in the order of the list, and ends where one ends the run (R135; 43_load_store_amo.md R271; 60_exceptions.md
R409). That the lists stand in ascending tag order is log entry 14. -/
def Obligations.TickRunsFiveStages : Prop :=
  ∀ s a b c d e : State, s.status = .running → commitStage s = .next a →
    (a.status ≠ .running → step s = .next a) ∧
    (a.status = .running → broadcastStage a = .next b →
      (b.status ≠ .running → step s = .next b) ∧
      (b.status = .running → executeStage b = .next c →
        (c.status ≠ .running → step s = .next c) ∧
        (c.status = .running → issueStage c = .next d →
          (d.status ≠ .running → step s = .next d) ∧
          (d.status = .running → fetchStage d = .next e →
            (e.status ≠ .running → step s = .next e) ∧
            (e.status = .running → step s = .next { e with cycle := e.cycle + 1 }))))) ∧
    (∀ h tail i, s.rob = h :: tail → h.ins.op = .ins i →
      commitStage s = rest (exec i { s with stage := .commit })) ∧
    (∀ r tail i, s.iq = r :: tail → r.op = .ins i → issueStage s = rest (exec i { s with stage := .issue })) ∧
    (∀ i u, execOp (.ins i) u = exec i u) ∧
    executeStage s =
      andThen (andThen (andThen (visits .execute (s.rsAlu.map fun e => (e.dest, e.ins.op)) s)
        fun u => visits .execute (u.rsMd.map fun e => (e.dest, e.ins.op)) u)
        fun u => visits .execute (u.rsAgu.map fun e => (e.dest, e.ins.op)) u)
        fun u => visits .load (u.lb.map fun l => (l.owner, l.ins.op)) u

/-- R133, R134: a running core always has its tick, and the cycle counter counts exactly the ticks that complete. The
parameters stay as they are (00_scope.md R8, R9; log entry 1), and the model's own field `stage` rests at fetch between
ticks (log entry 12). -/
def Obligations.CycleCountsCompletedTicks : Prop :=
  ∀ s : State, s.status = .running →
    ∃ t, step s = .next t ∧
      ((t.status = .running ∧ t.cycle = s.cycle + 1) ∨ (t.status ≠ .running ∧ t.cycle = s.cycle)) ∧
      t.cfg = s.cfg ∧ (s.stage = .fetch → t.stage = .fetch)

/-- 10_state.md R44; 60_exceptions.md R400, R411: an exited or faulted run takes no tick. -/
def Obligations.StoppedRunTakesNoTick : Prop :=
  ∀ (s t : State), s.status ≠ .running → step s ≠ .next t

/-- 20_memory.md R69, R70; 45_cdb.md R355; 10_state.md R20, R38; 44_branch_fetch.md R331: the tick's later stages leave the register
file, memory and the predictor as commit left them. -/
def Obligations.OnlyCommitWritesArchitecture : Prop :=
  ∀ s c t : State, s.status = .running → commitStage s = .next c → step s = .next t →
    t.regs = c.regs ∧ t.mem = c.mem ∧ t.pred = c.pred

/-- 46_commit.md R382, R378: unless the head is a completed branch whose outcome is not its prediction, or an ECALL with its
next pc ready, commit discards nothing: at most the head leaves. -/
def Obligations.OnlyTwoEventsSquash : Prop :=
  ∀ s c : State, commitStage s = .next c →
    (¬ ∃ h tail, s.rob = h :: tail ∧
      ((opKind h.ins.op = .branch ∧ h.complete = true ∧ ¬ (h.result = 1 ↔ h.ins.pred = true)) ∨
        (isSyscall h.ins.op = true ∧ h.valueReady = true))) →
    c.iq = s.iq ∧ c.rsAlu = s.rsAlu ∧ c.rsMd = s.rsMd ∧ c.rsAgu = s.rsAgu ∧ c.lb = s.lb ∧ c.jalrWait = s.jalrWait ∧
      c.pc = s.pc ∧ c.nextTag = s.nextTag ∧ c.cycle = s.cycle ∧
      (c.rob.map (·.tag) = s.rob.map (·.tag) ∨ c.rob = s.rob.tail)

/-! ### Invariants -/

/-- 20_memory.md R60 (log entry 5): memory keeps its canonical form over every step, so equal memories are equal data. -/
def Obligations.StepKeepsMemoryCanonical : Prop :=
  ∀ s t : State, Memory.wf s.mem → step s = .next t → Memory.wf t.mem

/-- 10_state.md R21, R46 (5): x0 stays 0 and unclaimed over every step. -/
def Obligations.StepKeepsZeroRegister : Prop :=
  ∀ s t : State, ZeroRegister s → step s = .next t → ZeroRegister t

/-- 10_state.md R28, R34, R46 (4): the reorder buffer stays in strictly rising tag order over every step. -/
def Obligations.StepKeepsTagOrder : Prop :=
  ∀ s t : State, TagsInOrder s → step s = .next t → TagsInOrder t

/-- 10_state.md R28: a tick hands out at most one tag, the next one, and next_tag never goes down. -/
def Obligations.TagsAreNeverReused : Prop :=
  ∀ s t : State, step s = .next t →
    (t.nextTag = s.nextTag ∨ t.nextTag = s.nextTag + 1) ∧
    ∀ h ∈ t.rob, (∃ g ∈ s.rob, g.tag = h.tag) ∨ (h.tag = s.nextTag ∧ t.nextTag = s.nextTag + 1)

/-- 70_reset_and_hazards.md R431; 10_state.md R45: the state every run starts from, whatever the loader supplies; and the
invariants hold there. -/
def Obligations.LaunchMeetsInvariants : Prop :=
  ∀ (cfg : Config) (entry : Word) (regs : RegFile) (mem : Memory) (s : State),
    s = State.launch cfg entry regs mem →
    (s.pc = entry ∧ s.regs[0] = 0 ∧ (∀ k, (h : 1 ≤ k ∧ k < 32) → s.regs[k] = regs[k]) ∧ s.mem = mem ∧
      (∀ r : Reg, rstAt s r = ⟨false, 0⟩) ∧ s.iq = [] ∧ s.rsAlu = [] ∧ s.rsMd = [] ∧ s.rsAgu = [] ∧ s.lb = [] ∧
      s.rob = [] ∧ s.jalrWait = .none ∧ s.nextTag = 1 ∧ s.cycle = 0 ∧ s.pred = cfg.predictor.initial ∧
      s.status = .running) ∧
    s.cfg = cfg ∧ ZeroRegister s ∧ TagsInOrder s ∧ Quiet s ∧ (Memory.wf mem → Memory.wf s.mem)

/-- 10_state.md R46: the five invariants at the start of every tick of every run. -/
def Obligations.RunInvariants : Prop :=
  ∀ (cfg : Config) (entry : Word) (regs : RegFile) (mem : Memory) (n : Nat) (s : State),
    cfg.wf → Reaches cfg entry regs mem n s → s.status = .running →
    BusyOwned s ∧ PendingProduced s ∧ OwnersPresent s ∧ TagsInOrder s ∧ ZeroRegister s

/-- 45_cdb.md R351, R354: at the start of every tick of every run a tag has at most one entry in the pools and the load buffer
together, so the messages of one tick have distinct tags; and a tag that one tick harvests is in the harvest of no
later tick. -/
def Obligations.TagsHaveOneUnit : Prop :=
  ∀ (cfg : Config) (entry : Word) (regs : RegFile) (mem : Memory) (n : Nat) (s : State),
    cfg.wf → Reaches cfg entry regs mem n s → s.status = .running →
    OneUnitPerTag s ∧ ((harvestSet s).map (·.tag)).Nodup ∧
    ∀ (m : Nat) (t : State), core.run (m + 1) s = .next t → t.status = .running →
      ∀ x ∈ harvestSet s, ∀ y ∈ harvestSet t, x.tag ≠ y.tag

/-- 10_state.md R46; 60_exceptions.md R406: no run ever raises StaleTag. -/
def Obligations.StaleTagUnreachable : Prop :=
  ∀ (cfg : Config) (entry : Word) (regs : RegFile) (mem : Memory) (n : Nat) (s : State),
    cfg.wf → Reaches cfg entry regs mem n s → ¬ IsStaleTag s.status

/-! ### Memory -/

/-- 20_memory.md R61, R63: after MemWrite(a, n, v), the byte at a + k is byte k of v, and a read of k bytes at a sees the low
k bytes of v, for n up to 4; and the write changes no other byte. -/
def Obligations.ReadAfterWrite : Prop :=
  ∀ (m : Memory) (a v : Word) (n : Nat),
    (Memory.wf m → n ≤ 4 →
      (∀ k < n, readByte (memWrite m a n v) (a + BitVec.ofNat 32 k) = v.extractLsb' (8 * k) 8) ∧
      (∀ k ≤ n, (memRead (memWrite m a n v) a k).toNat = v.toNat % 2 ^ (8 * k))) ∧
    (∀ b : Word, (∀ k < n, b ≠ a + BitVec.ofNat 32 k) → readByte (memWrite m a n v) b = readByte m b)

/-- 20_memory.md R62, R64; 60_exceptions.md R409 (4): an access of n bytes at a is refused as Misaligned first, then as
MemoryFault, and otherwise allowed. -/
def Obligations.AccessChecks : Prop :=
  ∀ (c : Config) (a : Word) (n : Nat),
    (IsMisaligned c a n → accessFault c a n = some (.misaligned a)) ∧
    (¬ IsMisaligned c a n → ¬ InRange c a n → accessFault c a n = some (.memoryFault a)) ∧
    (Allowed c a n → accessFault c a n = none)

/-! ### Fetch -/

/-- 44_branch_fetch.md R321, R322, R335; 30_encoding.md R120: the three fetch faults in their order, each with its
information, the rest of the tick not run. -/
def Obligations.FetchFaultsInOrder : Prop :=
  ∀ s p : State, s.status = .running → beforeFetch s = .next p → p.status = .running → p.jalrWait = .none →
    p.stage = .fetch →
    (IsMisaligned p.cfg p.pc 4 → step s = .next { p with status := .faulted (.misaligned p.pc) }) ∧
    (¬ IsMisaligned p.cfg p.pc 4 → ¬ InRange p.cfg p.pc 4 →
      step s = .next { p with status := .faulted (.memoryFault p.pc) }) ∧
    (Allowed p.cfg p.pc 4 → (∀ i, decodeWord (memRead p.mem p.pc 4) = .ok i → kindOf i = .refused) →
      step s = .next { p with status := .faulted (.decodeFault p.pc (memRead p.mem p.pc 4)) })

/-- 44_branch_fetch.md R323, R325 to R327: every executed instruction but a branch is enqueued with its own pc; pc goes on
by 4, but JAL jumps at fetch, and JALR leaves pc and stalls fetch. -/
def Obligations.FetchSetsPc : Prop :=
  ∀ s : State, s.stage = .fetch →
    (∀ i : Instr, kindOf i ≠ .branch → isJal i = false → isJalr i = false → kindOf i ≠ .suppressed →
      kindOf i ≠ .refused →
      exec i s = .next { s with iq := s.iq ++ [⟨.ins i, s.pc, false⟩], pc := s.pc + 4 }) ∧
    (∀ (rd : Reg) (imm : Word), exec (.jal rd imm) s = .next { s with
      iq := s.iq ++ [⟨.ins (.jal rd imm), s.pc, false⟩], pc := s.pc + imm }) ∧
    (∀ (rd rs1 : Reg) (imm : Word), exec (.jalr rd rs1 imm) s = .next { s with
      iq := s.iq ++ [⟨.ins (.jalr rd rs1 imm), s.pc, false⟩], jalrWait := .unissued })

/-- 44_branch_fetch.md R324, R330: a conditional branch records the predictor's answer and follows it; always-taken
always jumps. -/
def Obligations.FetchPredictsBranches : Prop :=
  ∀ (i : Instr) (s : State) (taken : Bool) (imm : Word), s.stage = .fetch →
    branchShape i (readReg s) = some (taken, imm) →
    exec i s = .next { s with
      iq := s.iq ++ [⟨.ins i, s.pc, predict s s.pc⟩]
      pc := if predict s s.pc then s.pc + imm else s.pc + 4 } ∧
    (s.cfg.predictor = .static true →
      exec i s = .next { s with iq := s.iq ++ [⟨.ins i, s.pc, true⟩], pc := s.pc + imm })

/-- 44_branch_fetch.md R325, R328: behind a JALR fetch does nothing until the JALR's base is known, and then goes on at
base + imm with bit 0 cleared, in that tick. -/
def Obligations.JalrResumes : Prop :=
  ∀ (s : State) (t : Tag) (before after : List RsEntry) (e : RsEntry),
    (s.jalrWait = .unissued → fetchStage s = .next s) ∧
    (s.jalrWait = .waiting t → FirstWhere (fun x => x.dest = t) s.rsAlu before e after →
      (e.qj ≠ 0 → fetchStage s = .next s) ∧
      (e.qj = 0 → fetchStage s =
        fetchStage { s with pc := (e.vj + e.vk).extractLsb' 1 31 ++ 0#1, jalrWait := .none })) ∧
    (s.jalrWait = .waiting t → (∀ x ∈ s.rsAlu, x.dest ≠ t) →
      fetchStage s = .next { s with status := .faulted (.staleTag t) })

/-- 30_encoding.md R121; 60_exceptions.md R400, R401: EBREAK and the six CSR instructions stop the run with
DecodeFault (pc, word) and change nothing else. The rules raise it in the fetch stage; that the meaning is the same
whichever stage asks is the model's reading (log entry 15). -/
def Obligations.RefusedRowsFault : Prop :=
  ∀ (i : Instr) (s : State), kindOf i = .refused →
    exec i s = .next { s with status := .faulted (.decodeFault s.pc (memRead s.mem s.pc 4)) }

/-- 41_alu.md R232; 44_branch_fetch.md R334; 30_encoding.md R111: each of the 26 RV32F rows enters iq as NOP with its
own pc, pc goes on by 4, and at issue it takes an rs_alu and a reorder-buffer entry without source or destination. -/
def Obligations.SuppressedBecomesNop : Prop :=
  ∀ (i : Instr) (s : State), kindOf i = .suppressed →
    (s.stage = .fetch → exec i s = .next { s with iq := s.iq ++ [⟨.nop, s.pc, false⟩], pc := s.pc + 4 }) ∧
    (∀ r tail, s.stage = .issue → s.iq = r :: tail →
      execOp .nop s = .next { s with
        iq := tail
        nextTag := s.nextTag + 1
        rob := s.rob ++ [⟨s.nextTag, r, 0, 0, false, false, 0, 0, false, 0, 0⟩]
        rsAlu := s.rsAlu ++ [⟨r, 0, 0, 0, 0, s.nextTag, 0, 0, 0⟩] })

/-- 44_branch_fetch.md R330, R332: a static policy answers its constant and never changes; the 2-bit policy predicts taken
from counter 2 on, and an update moves the counter of that index by one, between 0 and 3, and no other counter. -/
def Obligations.PredictorCounts : Prop :=
  ∀ (s : State) (pc : Word) (taken : Bool),
    (∀ b, s.cfg.predictor = .static b → predict s pc = b ∧ updatedPred s pc taken = s.pred) ∧
    (∀ init, s.cfg.predictor = .twoBit init →
      (predict s pc = true ↔ 2 ≤ (counterAt init s.pred (Config.branchIndex pc)).val) ∧
      (counterAt init (updatedPred s pc taken) (Config.branchIndex pc)).val =
        (if taken then min 3 ((counterAt init s.pred (Config.branchIndex pc)).val + 1)
          else (counterAt init s.pred (Config.branchIndex pc)).val - 1) ∧
      ∀ k, k ≠ Config.branchIndex pc → counterAt init (updatedPred s pc taken) k = counterAt init s.pred k)

/-! ### Issue -/

/-- 40_cycle_issue_rename.md R141; 10_state.md R40: the rename read. -/
def Obligations.RenameReadMapsRegisters : Prop :=
  ∀ (s : State) (r : Reg) (older younger : List RobEntry) (h : RobEntry),
    (r = 0 → renameRead s r = .slot ⟨0, 0⟩) ∧
    (r ≠ 0 → (rstAt s r).busy = false → renameRead s r = .slot ⟨s.regs[r.toNat]'r.isLt, 0⟩) ∧
    (r ≠ 0 → (rstAt s r).busy = true → Owner s (rstAt s r).tag older h younger →
      (h.complete = true → renameRead s r = .slot ⟨h.result, 0⟩) ∧
      (h.complete = false → renameRead s r = .slot ⟨0, (rstAt s r).tag⟩)) ∧
    (r ≠ 0 → (rstAt s r).busy = true → ¬ TagPresent s (rstAt s r).tag → renameRead s r = .stale (rstAt s r).tag)

/-- 40_cycle_issue_rename.md R142 to R148; 30_encoding.md R110, R111: what the issue of each executed instruction does, the
whole next state. -/
def Obligations.IssueFillsSlots : Prop :=
  ∀ (i : Instr) (form : IssueForm) (s : State) (r : Decoded) (tail : List Decoded) (j k d : Slot),
    s.status = .running → s.stage = .issue → s.iq = r :: tail → issueTable i = some form →
    readOperand s r.pc form.j = .slot j → readOperand s r.pc form.k = .slot k →
    (form.data = none → d = ⟨0, 0⟩) → (∀ b, form.data = some b → renameRead s b = .slot d) →
    exec i s = .next { s with
      iq := tail
      nextTag := s.nextTag + 1
      rob := s.rob ++ [{
        tag := s.nextTag, ins := r, dest := form.dest, addr := 0, addrReady := false, complete := false, result := 0,
        wb := d.v, valueReady := form.data.isSome && d.q == 0, storeQ := d.q, progress := 0 }]
      rsAlu := if form.pool = .alu then s.rsAlu ++ [⟨r, j.v, j.q, k.v, k.q, s.nextTag, form.a, 0, 0⟩] else s.rsAlu
      rsMd := if form.pool = .md then s.rsMd ++ [⟨r, j.v, j.q, k.v, k.q, s.nextTag, form.a, 0, 0⟩] else s.rsMd
      rsAgu := if form.pool = .agu then s.rsAgu ++ [⟨r, j.v, j.q, k.v, k.q, s.nextTag, form.a, 0, 0⟩] else s.rsAgu
      rst := rstClaimed s form.dest s.nextTag
      jalrWait := if isJalr i = true ∧ s.jalrWait = .unissued then .waiting s.nextTag else s.jalrWait }

/-! ### Execute -/

/-- 41_alu.md R170 to R201, R228, R230 to R232: one ALU evaluation, the whole next state, NOP included. -/
def Obligations.AluResults : Prop :=
  ∀ (s : State) (t : Tag) (before after : List RsEntry) (e : RsEntry),
    s.stage = .execute t → FirstWhere (fun x => Eligible t x ∧ x.progress = 0) s.rsAlu before e after →
    (∀ (i : Instr) (v : Word), aluTable i e.vj e.vk e.ins.pc = some v →
      exec i s = .next { s with rsAlu := before ++ { e with result := v, progress := 1 } :: after }) ∧
    execOp .nop s = .next { s with rsAlu := before ++ { e with result := 0, progress := 1 } :: after }

/-- 42_muldiv.md R240 to R245: one tick of a multiply, the whole next state. -/
def Obligations.MultiplyProgress : Prop :=
  ∀ (i : Instr) (s : State) (t : Tag) (before after : List RsEntry) (e : RsEntry) (v : Word),
    s.stage = .execute t → FirstWhere (fun x => x.dest = t) s.rsMd before e after → e.qj = 0 → e.qk = 0 →
    e.progress < s.cfg.mulLat → mulTable i e.vj e.vk = some v →
    exec i s = .next { s with rsMd := before ++ { e with
      progress := e.progress + 1, result := if e.progress + 1 = s.cfg.mulLat then v else e.result } :: after }

/-- 42_muldiv.md R240, R241, R246 to R249: one tick of a division, outside the corner cases or before the last tick. -/
def Obligations.DivisionProgress : Prop :=
  ∀ (i : Instr) (op : DivOp) (s : State) (t : Tag) (before after : List RsEntry) (e : RsEntry),
    s.stage = .execute t → FirstWhere (fun x => x.dest = t) s.rsMd before e after → e.qj = 0 → e.qk = 0 →
    divOpOf i = some op →
    (e.progress + 1 < s.cfg.divLat →
      exec i s = .next { s with rsMd := before ++ { e with progress := e.progress + 1 } :: after }) ∧
    (e.progress + 1 = s.cfg.divLat → ¬ IsDivCorner op e.vj e.vk →
      exec i s = .next { s with
        rsMd := before ++ { e with progress := e.progress + 1, result := divTable op e.vj e.vk } :: after })

/-- 42_muldiv.md R250; 60_exceptions.md R405 (log entries 9, 17): the corner cases by DIV_CORNER. The host's value is free.
That the last tick's progress stands when DivFault is raised is the model's reading (log entry 17). -/
def Obligations.DivisionCorners : Prop :=
  ∀ (i : Instr) (op : DivOp) (s : State) (t : Tag) (before after : List RsEntry) (e : RsEntry),
    s.stage = .execute t → FirstWhere (fun x => x.dest = t) s.rsMd before e after → e.qj = 0 → e.qk = 0 →
    divOpOf i = some op → e.progress + 1 = s.cfg.divLat → IsDivCorner op e.vj e.vk →
    (s.cfg.divCorner = .fault →
      exec i s = .next { s with
        rsMd := before ++ { e with progress := e.progress + 1 } :: after
        status := .faulted (.divFault e.ins.pc op e.vj e.vk) }) ∧
    (s.cfg.divCorner = .host →
      exec i s = .next { s with rsMd := before ++
        { e with progress := e.progress + 1, result := Config.hostDivision op e.vj e.vk } :: after }) ∧
    (s.cfg.divCorner = .riscv →
      exec i s = .next { s with rsMd := before ++
        { e with
          progress := e.progress + 1
          result :=
            match op with
            | .div => if e.vk = 0 then 0xffffffff#32 else 0x80000000#32
            | .divu => 0xffffffff#32
            | .rem => if e.vk = 0 then e.vj else 0
            | .remu => e.vj } :: after })

/-- 41_alu.md R170; 42_muldiv.md R240; 43_load_store_amo.md R260: an entry with a pending operand stays unchanged.
The premise is also met where no entry has the tag; that nothing changes there is the model's choice (log entry 19). -/
def Obligations.PendingEntriesWait : Prop :=
  ∀ (i : Instr) (s : State) (t : Tag), s.stage = .execute t → kindOf i ≠ .refused →
    (∀ e, InPool s e → ¬ Eligible t e) → exec i s = .next s

/-- 43_load_store_amo.md R260 to R264, R271: address generation. A load or an AMO enters the load buffer in the order of its
tag, a store or an AMO gives its reorder-buffer entry the address, LR.W also has its result 0. The place in the load buffer
is the model's choice: the spec's set (10_state.md R36) is a list in the order R271 works through it (log entry 14). -/
def Obligations.AddressGeneration : Prop :=
  ∀ (i : Instr) (s : State) (t : Tag) (before after : List RsEntry) (e : RsEntry) (older younger : List RobEntry)
    (h : RobEntry),
    s.stage = .execute t → FirstWhere (fun x => Eligible t x ∧ x.progress = 0) s.rsAgu before e after →
    (kindOf i = .load → ∃ lo hi, s.lb = lo ++ hi ∧ (∀ l ∈ lo, l.owner ≤ t) ∧ (∀ l ∈ hi.head?, t < l.owner) ∧
      exec i s = .next { s with
        rsAgu := before ++ after, lb := lo ++ ⟨t, e.ins, e.vj + e.a, 0, false, none, 0, 0⟩ :: hi }) ∧
    (Owner s t older h younger →
      ((∃ w, kindOf i = .store w) → exec i s = .next { s with
        rsAgu := before ++ after, rob := older ++ { h with addr := e.vj + e.a, addrReady := true } :: younger }) ∧
      (kindOf i = .amo → ∃ lo hi, s.lb = lo ++ hi ∧ (∀ l ∈ lo, l.owner ≤ t) ∧ (∀ l ∈ hi.head?, t < l.owner) ∧
        exec i s = .next { s with
          rsAgu := before ++ after
          lb := lo ++ ⟨t, e.ins, e.vj + e.a, e.vk, false, none, 0, 0⟩ :: hi
          rob := older ++ { h with addr := e.vj + e.a, addrReady := true } :: younger }) ∧
      (kindOf i = .loadReserved → exec i s = .next { s with
        rsAgu := before ++ { e with result := 0, progress := 1 } :: after
        rob := older ++ { h with addr := e.vj + e.a, addrReady := true } :: younger }))

/-- 43_load_store_amo.md R273, R272: the youngest older store-class entry that the scan does not pass by stalls the load while
its address is unknown, or matches and its value is not ready. -/
def Obligations.ScanStalls : Prop :=
  ∀ (i : Instr) (s : State) (t : Tag) (before after : List LbEntry) (l : LbEntry) (first second younger : List RobEntry)
    (g h : RobEntry),
    (kindOf i = .load ∨ kindOf i = .amo) → s.stage = .load t → FirstWhere (Working s t) s.lb before l after →
    l.cleared = false → Owner s t (first ++ h :: second) g younger → (∀ x ∈ second, Passed l.addr x) →
    storeWidth h.ins.op ≠ none → (h.addrReady = false ∨ (h.addr = l.addr ∧ h.valueReady = false)) →
    exec i s = .next s

/-- 43_load_store_amo.md R273 to R275: a matching older entry whose value is ready, and is wide enough, clears the load with the
low bytes of its write-back value; the rest of the load-buffer step is that of the cleared entry. -/
def Obligations.ScanForwards : Prop :=
  ∀ (i : Instr) (wl ws : Width) (s : State) (t : Tag) (before after : List LbEntry) (l : LbEntry)
    (first second younger : List RobEntry) (g h : RobEntry),
    ((∃ sign rd a imm, loadShape i = some (wl, sign, rd, a, imm)) ∨ (kindOf i = .amo ∧ wl = .word)) →
    s.stage = .load t → FirstWhere (fun x => x.owner = t) s.lb before l after → l.progress < s.cfg.cacheLat →
    l.cleared = false → Owner s t (first ++ h :: second) g younger → (∀ x ∈ second, Passed l.addr x) →
    storeWidth h.ins.op = some ws → h.addrReady = true → h.addr = l.addr → h.valueReady = true →
    (widthBytes wl ≤ widthBytes ws ∨ s.cfg.fwdWider = .raw) →
    exec i s = exec i { s with lb := before ++
      { l with cleared := true, fwd := some (BitVec.ofNat 32 (h.wb.toNat % 2 ^ widthBits wl)) } :: after }

/-- 43_load_store_amo.md R273, R275: where every older entry is passed by, the load is cleared to read memory. -/
def Obligations.ScanFindsNoStore : Prop :=
  ∀ (i : Instr) (s : State) (t : Tag) (before after : List LbEntry) (l : LbEntry) (older younger : List RobEntry)
    (g : RobEntry),
    (kindOf i = .load ∨ kindOf i = .amo) → s.stage = .load t → FirstWhere (fun x => x.owner = t) s.lb before l after →
    l.progress < s.cfg.cacheLat → l.cleared = false → Owner s t older g younger → (∀ x ∈ older, Passed l.addr x) →
    exec i s = exec i { s with lb := before ++ { l with cleared := true, fwd := none } :: after }

/-- 43_load_store_amo.md R277; 60_exceptions.md R408: a ready match that is narrower than the load ends the run when
FWD_WIDER = fault. -/
def Obligations.NarrowStoreFaults : Prop :=
  ∀ (i : Instr) (wl ws : Width) (s : State) (t : Tag) (before after : List LbEntry) (l : LbEntry)
    (first second younger : List RobEntry) (g h : RobEntry),
    ((∃ sign rd a imm, loadShape i = some (wl, sign, rd, a, imm)) ∨ (kindOf i = .amo ∧ wl = .word)) →
    s.stage = .load t → FirstWhere (Working s t) s.lb before l after →
    l.cleared = false → Owner s t (first ++ h :: second) g younger → (∀ x ∈ second, Passed l.addr x) →
    storeWidth h.ins.op = some ws → h.addrReady = true → h.addr = l.addr → h.valueReady = true →
    widthBytes ws < widthBytes wl → s.cfg.fwdWider = .fault →
    exec i s = .next { s with status := .faulted (.unmodelledForward l.ins.pc l.addr) }

/-- 43_load_store_amo.md R270, R276, R278, R279: one tick of a cleared load, the whole next state: progress, and in the
tick that reaches CACHE_LAT the extended value, forwarded or read. -/
def Obligations.LoadReads : Prop :=
  ∀ (i : Instr) (w : Width) (sign : Bool) (rd a : Reg) (imm : Word) (s : State) (t : Tag) (before after : List LbEntry)
    (l : LbEntry),
    loadShape i = some (w, sign, rd, a, imm) → s.stage = .load t →
    FirstWhere (fun x => x.owner = t) s.lb before l after → l.cleared = true →
    (l.progress + 1 < s.cfg.cacheLat →
      exec i s = .next { s with lb := before ++ { l with progress := l.progress + 1 } :: after }) ∧
    (l.progress + 1 = s.cfg.cacheLat → ∀ v, l.fwd = some v →
      exec i s = .next { s with lb := before ++
        { l with progress := l.progress + 1, result := loadedValue w sign v } :: after }) ∧
    (l.progress + 1 = s.cfg.cacheLat → l.fwd = none → Allowed s.cfg l.addr (widthBytes w) →
      exec i s = .next { s with lb := before ++
        { l with
          progress := l.progress + 1
          result := loadedValue w sign (memRead s.mem l.addr (widthBytes w)) } :: after })

/-- 43_load_store_amo.md R270, R276, R278, R280, R281: one tick of a cleared SC.W or AMO, the whole next state. -/
def Obligations.AtomicReads : Prop :=
  ∀ (i : Instr) (old new : Word) (s : State) (t : Tag) (before after : List LbEntry) (l : LbEntry)
    (older younger : List RobEntry) (h : RobEntry),
    amoTable i old l.src = some new → s.stage = .load t →
    FirstWhere (fun x => x.owner = t) s.lb before l after → l.cleared = true → Owner s t older h younger →
    (l.progress + 1 < s.cfg.cacheLat →
      exec i s = .next { s with lb := before ++ { l with progress := l.progress + 1 } :: after }) ∧
    (l.progress + 1 = s.cfg.cacheLat →
      (l.fwd = some old ∨ (l.fwd = none ∧ Allowed s.cfg l.addr 4 ∧ old = memRead s.mem l.addr 4)) →
      exec i s = .next { s with
        lb := before ++ { l with progress := l.progress + 1, result := amoResult s.cfg i old } :: after
        rob := older ++
          { h with result := amoResult s.cfg i old, wb := new, valueReady := true } :: younger })

/-- 43_load_store_amo.md R278; 60_exceptions.md R402, R407, R409 (4): a load or AMO read that reaches its latency without
a forwarded value faults, Misaligned first. That the last tick's progress stands is the model's reading (log entry
17). -/
def Obligations.ReadFaults : Prop :=
  ∀ (i : Instr) (w : Width) (s : State) (t : Tag) (before after : List LbEntry) (l : LbEntry),
    ((∃ sign rd a imm, loadShape i = some (w, sign, rd, a, imm)) ∨ (kindOf i = .amo ∧ w = .word)) →
    s.stage = .load t → FirstWhere (fun x => x.owner = t) s.lb before l after → l.cleared = true → l.fwd = none →
    l.progress + 1 = s.cfg.cacheLat →
    (IsMisaligned s.cfg l.addr (widthBytes w) →
      exec i s = .next { s with
        lb := before ++ { l with progress := l.progress + 1 } :: after
        status := .faulted (.misaligned l.addr) }) ∧
    (¬ IsMisaligned s.cfg l.addr (widthBytes w) → ¬ InRange s.cfg l.addr (widthBytes w) →
      exec i s = .next { s with
        lb := before ++ { l with progress := l.progress + 1 } :: after
        status := .faulted (.memoryFault l.addr) })

/-! ### Broadcast -/

/-- 45_cdb.md R350 to R358, R362: the whole broadcast stage. Every finished entry leaves its pool and marks its owner, every
message reaches every waiting slot, and nothing else changes. The premises are invariants of every run
(StepKeepsTagOrder, RunInvariants, TagsHaveOneUnit). -/
def Obligations.BroadcastInFull : Prop :=
  ∀ s : State, s.status = .running → TagsInOrder s → (∀ x ∈ harvestSet s, TagPresent s x.tag) →
    OneUnitPerTag s →
    broadcastStage s = .next { s with
      rsAlu := (s.rsAlu.filter fun e => e.progress = 0).map (rsHeard (messages s))
      rsMd := (s.rsMd.filter fun e => e.progress < latency s.cfg e.ins.op).map (rsHeard (messages s))
      rsAgu := (s.rsAgu.filter fun e => ¬ (opKind e.ins.op = .loadReserved ∧ 1 ≤ e.progress)).map
        (rsHeard (messages s))
      lb := s.lb.filter fun l => l.progress < s.cfg.cacheLat
      rob := (s.rob.map (robHarvested (harvestSet s))).map (robHeard (messages s)) }

/-! ### Commit -/

/-- 46_commit.md R376 to R378, R381: commit of every instruction of class other, and of the internal NOP, the whole next state. The
register is written whether or not the entry still owns it. -/
def Obligations.CommitOther : Prop :=
  ∀ (i : Instr) (s : State) (h : RobEntry) (tail : List RobEntry),
    s.stage = .commit → s.rob = h :: tail →
    (kindOf i = .alu ∨ kindOf i = .mul ∨ kindOf i = .div ∨ kindOf i = .load ∨ kindOf i = .loadReserved) →
    (h.complete = false → exec i s = .next s ∧ execOp .nop s = .next s) ∧
    (h.complete = true →
      exec i s = .next { s with
        regs := regsWith s h.dest h.result, rst := rstReleased s h.dest h.tag, rob := tail } ∧
      execOp .nop s = .next { s with
        regs := regsWith s h.dest h.result, rst := rstReleased s h.dest h.tag, rob := tail })

/-- 46_commit.md R372, R377, R378, R381: commit of a store, SC.W or AMO: the stall, the latency tick, the two faults, and the
write with the register and the retirement. -/
def Obligations.CommitStore : Prop :=
  ∀ (i : Instr) (w : Width) (s : State) (h : RobEntry) (tail : List RobEntry),
    s.stage = .commit → s.rob = h :: tail → storeWidth (.ins i) = some w →
    ((h.addrReady = false ∨ h.valueReady = false) → exec i s = .next s) ∧
    (h.addrReady = true → h.valueReady = true →
      (h.progress = 0 → exec i s = .next { s with rob := { h with progress := 1 } :: tail }) ∧
      (h.progress ≠ 0 → IsMisaligned s.cfg h.addr (widthBytes w) →
        exec i s = .next { s with status := .faulted (.misaligned h.addr) }) ∧
      (h.progress ≠ 0 → ¬ IsMisaligned s.cfg h.addr (widthBytes w) → ¬ InRange s.cfg h.addr (widthBytes w) →
        exec i s = .next { s with status := .faulted (.memoryFault h.addr) }) ∧
      (h.progress ≠ 0 → Allowed s.cfg h.addr (widthBytes w) →
        exec i s = .next { s with
          mem := memWrite s.mem h.addr (widthBytes w) h.wb
          regs := regsWith s h.dest h.result, rst := rstReleased s h.dest h.tag, rob := tail }))

/-- 46_commit.md R374, R378, R379, R381, R383, R385: commit of a conditional branch, the whole next state. -/
def Obligations.CommitBranch : Prop :=
  ∀ (i : Instr) (taken : Bool) (imm : Word) (s : State) (h : RobEntry) (tail : List RobEntry),
    s.stage = .commit → s.rob = h :: tail → branchShape i (readReg s) = some (taken, imm) →
    (h.complete = false → exec i s = .next s) ∧
    (h.complete = true → h.ins.pred = decide (h.result = 1) →
      exec i s = .next { s with pred := updatedPred s h.ins.pc (decide (h.result = 1)), rob := tail }) ∧
    (h.complete = true → h.ins.pred ≠ decide (h.result = 1) →
      exec i s = .next (squashed { s with
        pred := updatedPred s h.ins.pc (decide (h.result = 1))
        pc := if h.result = 1 then h.ins.pc + imm else h.ins.pc + 4 }))

/-- 46_commit.md R375, R378, R383, R385; 60_exceptions.md R403, R410, R411: commit of an ECALL for each answer of the
dispatcher, the whole next state. The list of writes (log entry 8), the dispatcher's own MemoryFault and that an exit
leaves memory as it was (log entry 18) are the model's choices. -/
def Obligations.CommitSyscall : Prop :=
  ∀ (s : State) (h : RobEntry) (tail : List RobEntry), s.stage = .commit → s.rob = h :: tail →
    (h.valueReady = false → exec .ecall s = .next s) ∧
    (h.valueReady = true →
      (∀ v writes, dispatch s = .resume v writes →
        exec .ecall s = .next (squashed { s with
          regs := s.regs.set 10 v, mem := writeBytes s.mem writes, pc := h.result })) ∧
      (∀ code, dispatch s = .exit code → exec .ecall s = .next { s with status := .exited code }) ∧
      (∀ n, dispatch s = .unimplemented n →
        exec .ecall s = .next { s with status := .faulted (.syscallFault n) }) ∧
      (∀ a, dispatch s = .memFault a →
        exec .ecall s = .next { s with status := .faulted (.memoryFault a) }))

/-! ### One instruction alone in the core -/

/-- 41_alu.md R170 to R194, R230 to R232; 70_reset_and_hazards.md R446: an ALU-pool instruction alone retires in the fourth tick
from its issue on, with the value of program order, and leaves nothing else behind. -/
def Obligations.AluAlone : Prop :=
  ∀ (s : State) (r : Decoded) (rd : Reg) (v : Word), Alone s r → inOrderOp r.op (readReg s) r.pc = some (rd, v) →
    backTicks 4 s = .next (retiredWith s 4 rd v)

/-- 42_muldiv.md R241 to R245, R251; R445: a multiply alone takes MUL_LAT ticks of its unit. -/
def Obligations.MulAlone : Prop :=
  ∀ (s : State) (r : Decoded) (i : Instr) (rd a b : Reg) (v : Word), Alone s r → s.cfg.wf → r.op = .ins i →
    issueTable i = some ⟨.md, .reg a, .reg b, 0, rd, none⟩ → mulTable i (readReg s a) (readReg s b) = some v →
    backTicks (s.cfg.mulLat + 3) s = .next (retiredWith s (s.cfg.mulLat + 3) rd v)

/-- 42_muldiv.md R241, R246 to R250; R445: a division alone takes DIV_LAT ticks; on a corner case under DIV_CORNER = fault
the run ends in the tick that would give the result, with registers and memory as they were. -/
def Obligations.DivAlone : Prop :=
  ∀ (s : State) (r : Decoded) (i : Instr) (op : DivOp) (rd a b : Reg), Alone s r → s.cfg.wf → r.op = .ins i →
    divOpOf i = some op → issueTable i = some ⟨.md, .reg a, .reg b, 0, rd, none⟩ →
    (¬ IsDivCorner op (readReg s a) (readReg s b) →
      backTicks (s.cfg.divLat + 3) s =
        .next (retiredWith s (s.cfg.divLat + 3) rd (divTable op (readReg s a) (readReg s b)))) ∧
    (IsDivCorner op (readReg s a) (readReg s b) → s.cfg.divCorner = .fault →
      ∃ t, backTicks (s.cfg.divLat + 1) s = .next t ∧ t.regs = s.regs ∧ t.mem = s.mem ∧ t.pc = s.pc ∧
        t.status = .faulted (.divFault r.pc op (readReg s a) (readReg s b)))

/-- 43_load_store_amo.md R260 to R287, R302; R445: a load alone takes CACHE_LAT ticks from address generation on. -/
def Obligations.LoadAlone : Prop :=
  ∀ (s : State) (r : Decoded) (i : Instr) (w : Width) (sign : Bool) (rd a : Reg) (imm : Word), Alone s r → s.cfg.wf →
    r.op = .ins i → loadShape i = some (w, sign, rd, a, imm) →
    Allowed s.cfg (readReg s a + imm) (widthBytes w) →
    backTicks (s.cfg.cacheLat + 3) s =
      .next (retiredWith s (s.cfg.cacheLat + 3) rd
        (loadedValue w sign (memRead s.mem (readReg s a + imm) (widthBytes w))))

/-- 43_load_store_amo.md R262, R288 to R290; 46_commit.md R372: a store alone writes in the fourth tick from its issue on. -/
def Obligations.StoreAlone : Prop :=
  ∀ (s : State) (r : Decoded) (i : Instr) (w : Width) (a b : Reg) (imm : Word), Alone s r → r.op = .ins i →
    storeShape i = some (w, a, b, imm) → Allowed s.cfg (readReg s a + imm) (widthBytes w) →
    backTicks 4 s = .next { s with
      iq := [], nextTag := s.nextTag + 1, cycle := s.cycle + 4
      mem := memWrite s.mem (readReg s a + imm) (widthBytes w) (readReg s b) }

/-- 43_load_store_amo.md R263, R264, R280, R281, R291 to R301; 46_commit.md R372: an SC.W or AMO alone writes the combined
word and leaves the old one (SC.W: SC_SUCCESS) in rd; an LR.W alone leaves 0. -/
def Obligations.AtomicAlone : Prop :=
  ∀ (s : State) (r : Decoded) (i : Instr) (rd a b : Reg) (new : Word), Alone s r → s.cfg.wf → r.op = .ins i →
    (issueTable i = some ⟨.agu, .reg a, .reg b, 0, rd, none⟩ →
      amoTable i (memRead s.mem (readReg s a) 4) (readReg s b) = some new → Allowed s.cfg (readReg s a) 4 →
      backTicks (s.cfg.cacheLat + 3) s = .next
        { retiredWith s (s.cfg.cacheLat + 3) rd (amoResult s.cfg i (memRead s.mem (readReg s a) 4)) with
          mem := memWrite s.mem (readReg s a) 4 new }) ∧
    (kindOf i = .loadReserved → issueTable i = some ⟨.agu, .reg a, .const 0, 0, rd, none⟩ →
      backTicks 4 s = .next (retiredWith s 4 rd 0))

/-- 41_alu.md R195 to R200; 46_commit.md R374, R379: a branch alone retires in the fourth tick; where the prediction was wrong,
pc is the right target. -/
def Obligations.BranchAlone : Prop :=
  ∀ (s : State) (r : Decoded) (i : Instr) (taken : Bool) (imm : Word), Alone s r → r.op = .ins i →
    branchShape i (readReg s) = some (taken, imm) →
    backTicks 4 s = .next { s with
      iq := [], nextTag := s.nextTag + 1, cycle := s.cycle + 4, pred := updatedPred s r.pc taken
      pc := if r.pred = taken then s.pc else if taken then r.pc + imm else r.pc + 4 }

/-- 41_alu.md R201; 46_commit.md R375; 60_exceptions.md R410, R411: an ECALL alone calls the dispatcher in the fourth tick, with the
registers and memory of program order, and goes on at its pc + 4; an exit leaves registers and memory as they are. The list
of writes is log entry 8; that an exit leaves memory as it was is log entry 18, the model's choice. -/
def Obligations.EcallAlone : Prop :=
  ∀ (s : State) (r : Decoded), Alone s r → r.op = .ins .ecall →
    (∀ v writes, dispatch { s with cycle := s.cycle + 3 } = .resume v writes →
      backTicks 4 s = .next { s with
        iq := [], nextTag := s.nextTag + 1, cycle := s.cycle + 4, pc := r.pc + 4, regs := s.regs.set 10 v
        mem := writeBytes s.mem writes }) ∧
    (∀ code, dispatch { s with cycle := s.cycle + 3 } = .exit code →
      ∃ t, backTicks 4 s = .next t ∧ t.status = .exited code ∧ t.regs = s.regs ∧ t.mem = s.mem ∧ t.pc = s.pc ∧
        t.cycle = s.cycle + 3)

/-! ### Two instructions in the core -/

/-- 70_reset_and_hazards.md R440, R446; 40_cycle_issue_rename.md R141, R145, R146; 45_cdb.md R359; 46_commit.md R376, R377: two
ALU-pool instructions issued back to back leave what program order leaves, whatever registers they share, and the
second retires one tick after the first. -/
def Obligations.AluPairInOrder : Prop :=
  ∀ (s : State) (r1 r2 : Decoded) (d1 d2 : Reg) (v1 v2 : Word), Quiet s → s.iq = [r1, r2] →
    inOrderOp r1.op (readReg s) r1.pc = some (d1, v1) →
    inOrderOp r2.op (readReg (writeReg d1 v1 s)) r2.pc = some (d2, v2) →
    backTicks 5 s = .next { writeReg d2 v2 (writeReg d1 v1 s) with
      iq := [], nextTag := s.nextTag + 2, cycle := s.cycle + 5 }

/-- 20_memory.md R71; 43_load_store_amo.md R274: a load from the address of the store in front of it, no wider than the store,
yields the stored value, not what memory held. -/
def Obligations.StoreThenLoadForwards : Prop :=
  ∀ (s : State) (r1 r2 : Decoded) (i1 i2 : Instr) (ws wl : Width) (a1 b1 rd a2 : Reg) (imm1 imm2 : Word) (sign : Bool),
    Quiet s → s.cfg.wf → s.iq = [r1, r2] → r1.op = .ins i1 → r2.op = .ins i2 →
    storeShape i1 = some (ws, a1, b1, imm1) → loadShape i2 = some (wl, sign, rd, a2, imm2) →
    readReg s a2 + imm2 = readReg s a1 + imm1 → widthBytes wl ≤ widthBytes ws →
    Allowed s.cfg (readReg s a1 + imm1) (widthBytes ws) →
    backTicks (s.cfg.cacheLat + 4) s = .next { writeReg rd (loadedValue wl sign (readReg s b1)) s with
      iq := [], nextTag := s.nextTag + 2, cycle := s.cycle + (s.cfg.cacheLat + 4)
      mem := memWrite s.mem (readReg s a1 + imm1) (widthBytes ws) (readReg s b1) }

/-- 46_commit.md R374, R383 to R387; 20_memory.md R70, R73: an instruction of any kind behind a mispredicted branch leaves no
trace but the tag it took. -/
def Obligations.SquashErasesYounger : Prop :=
  ∀ (s : State) (r1 r2 : Decoded) (i1 i2 : Instr) (taken : Bool) (imm : Word), Quiet s → s.cfg.wf → 2 ≤ s.cfg.cacheLat →
    s.iq = [r1, r2] → r1.op = .ins i1 → branchShape i1 (readReg s) = some (taken, imm) → r1.pred ≠ taken →
    (r2.op = .nop ∨ (r2.op = .ins i2 ∧ issueTable i2 ≠ none)) →
    backTicks 4 s = .next { s with
      iq := [], nextTag := s.nextTag + 2, cycle := s.cycle + 4, pred := updatedPred s r1.pc taken
      pc := if taken then r1.pc + imm else r1.pc + 4 }

/-! ### Every run -/

/-- 70_reset_and_hazards.md R448, R440: while a run meets none of the cases of R442 and the dispatcher does not look at the
clock, its commits are, one by one, the instructions of sequential execution, each with the registers and memory that
sequential execution leaves, and an exit is sequential execution's. So the commits of two runs that differ in latencies and
predictor only are the same, as far as both have come. The initial memory is in the model's canonical form (log entry
5), in which every image has one list. Cases 3 to 5 of R442 are in the sequential machine itself, and cases 6 to 9 need no
premise: they end a run or do what the parameters say, and what was committed before stands. How cases 1, 2 and 10 are
read (HazardFree), and when an instruction counts as committed (commitTrace), is the model's reading (log entry 22,
DEDUCED). -/
def Obligations.CommitsAreSequential : Prop :=
  ∀ (cfg : Config) (entry : Word) (regs : RegFile) (mem : Memory) (n : Nat) (s : State),
    cfg.wf → Memory.wf mem → ClockFree cfg → HazardFreeRun cfg entry regs mem n → Reaches cfg entry regs mem n s →
    (∃ q, inOrderRun cfg (commitTrace n (State.launch cfg entry regs mem)).length ⟨regs.set 0 0, entry, mem⟩ =
        some (commitTrace n (State.launch cfg entry regs mem), q) ∧
      q.regs = s.regs ∧ q.mem = s.mem ∧ ∀ code, s.status = .exited code → inOrderStep cfg q = .exit code) ∧
    (∀ (other : Config) (m : Nat) (u : State), other.wf → SameButTiming cfg other →
      HazardFreeRun other entry regs mem m → Reaches other entry regs mem m u →
      commitTrace m (State.launch other entry regs mem) <+: commitTrace n (State.launch cfg entry regs mem) ∨
        commitTrace n (State.launch cfg entry regs mem) <+: commitTrace m (State.launch other entry regs mem))

/-- 46_commit.md R378; 70_reset_and_hazards.md R440, R445: no run waits for ever. From every running state of every run, the
run ends or commits an instruction within DIV_LAT + CACHE_LAT + 4 ticks. When an instruction counts as committed is the
model's reading (log entry 22, DEDUCED). -/
def Obligations.RunsKeepCommitting : Prop :=
  ∀ (cfg : Config) (entry : Word) (regs : RegFile) (mem : Memory) (n : Nat) (s : State),
    cfg.wf → Reaches cfg entry regs mem n s → s.status = .running →
    ∃ m t, m ≤ cfg.divLat + cfg.cacheLat + 4 ∧ core.run m s = .next t ∧ (t.status ≠ .running ∨ commitTrace m s ≠ [])
end

