-- ==== Sys2Proof/Laws/State.lean ====
section
/-! SUPPORT. One lemma per field per update of the state, so that no proof unfolds a record update. -/

namespace Sys2Proof.Machine

section

variable (s : State)

/-! ### raise -/

@[simp] theorem raise_regs (f : Fault) : (raise f s).regs = s.regs := rfl
@[simp] theorem raise_pc (f : Fault) : (raise f s).pc = s.pc := rfl
@[simp] theorem raise_mem (f : Fault) : (raise f s).mem = s.mem := rfl
@[simp] theorem raise_rst (f : Fault) : (raise f s).rst = s.rst := rfl
@[simp] theorem raise_iq (f : Fault) : (raise f s).iq = s.iq := rfl
@[simp] theorem raise_jalrWait (f : Fault) : (raise f s).jalrWait = s.jalrWait := rfl
@[simp] theorem raise_rsAlu (f : Fault) : (raise f s).rsAlu = s.rsAlu := rfl
@[simp] theorem raise_rsMd (f : Fault) : (raise f s).rsMd = s.rsMd := rfl
@[simp] theorem raise_rsAgu (f : Fault) : (raise f s).rsAgu = s.rsAgu := rfl
@[simp] theorem raise_rob (f : Fault) : (raise f s).rob = s.rob := rfl
@[simp] theorem raise_lb (f : Fault) : (raise f s).lb = s.lb := rfl
@[simp] theorem raise_nextTag (f : Fault) : (raise f s).nextTag = s.nextTag := rfl
@[simp] theorem raise_cycle (f : Fault) : (raise f s).cycle = s.cycle := rfl
@[simp] theorem raise_pred (f : Fault) : (raise f s).pred = s.pred := rfl
@[simp] theorem raise_status (f : Fault) : (raise f s).status = .faulted f := rfl
@[simp] theorem raise_cfg (f : Fault) : (raise f s).cfg = s.cfg := rfl
@[simp] theorem raise_stage (f : Fault) : (raise f s).stage = s.stage := rfl

/-! ### writeReg -/

@[simp] theorem writeReg_regs (r : Reg) (v : Word) : (writeReg r v s).regs = if r = 0 then s.regs else s.regs.set r.toNat v r.isLt := by unfold writeReg; split <;> rfl
@[simp] theorem writeReg_pc (r : Reg) (v : Word) : (writeReg r v s).pc = s.pc := by unfold writeReg; split <;> rfl
@[simp] theorem writeReg_mem (r : Reg) (v : Word) : (writeReg r v s).mem = s.mem := by unfold writeReg; split <;> rfl
@[simp] theorem writeReg_rst (r : Reg) (v : Word) : (writeReg r v s).rst = s.rst := by unfold writeReg; split <;> rfl
@[simp] theorem writeReg_iq (r : Reg) (v : Word) : (writeReg r v s).iq = s.iq := by unfold writeReg; split <;> rfl
@[simp] theorem writeReg_jalrWait (r : Reg) (v : Word) : (writeReg r v s).jalrWait = s.jalrWait := by unfold writeReg; split <;> rfl
@[simp] theorem writeReg_rsAlu (r : Reg) (v : Word) : (writeReg r v s).rsAlu = s.rsAlu := by unfold writeReg; split <;> rfl
@[simp] theorem writeReg_rsMd (r : Reg) (v : Word) : (writeReg r v s).rsMd = s.rsMd := by unfold writeReg; split <;> rfl
@[simp] theorem writeReg_rsAgu (r : Reg) (v : Word) : (writeReg r v s).rsAgu = s.rsAgu := by unfold writeReg; split <;> rfl
@[simp] theorem writeReg_rob (r : Reg) (v : Word) : (writeReg r v s).rob = s.rob := by unfold writeReg; split <;> rfl
@[simp] theorem writeReg_lb (r : Reg) (v : Word) : (writeReg r v s).lb = s.lb := by unfold writeReg; split <;> rfl
@[simp] theorem writeReg_nextTag (r : Reg) (v : Word) : (writeReg r v s).nextTag = s.nextTag := by unfold writeReg; split <;> rfl
@[simp] theorem writeReg_cycle (r : Reg) (v : Word) : (writeReg r v s).cycle = s.cycle := by unfold writeReg; split <;> rfl
@[simp] theorem writeReg_pred (r : Reg) (v : Word) : (writeReg r v s).pred = s.pred := by unfold writeReg; split <;> rfl
@[simp] theorem writeReg_status (r : Reg) (v : Word) : (writeReg r v s).status = s.status := by unfold writeReg; split <;> rfl
@[simp] theorem writeReg_cfg (r : Reg) (v : Word) : (writeReg r v s).cfg = s.cfg := by unfold writeReg; split <;> rfl
@[simp] theorem writeReg_stage (r : Reg) (v : Word) : (writeReg r v s).stage = s.stage := by unfold writeReg; split <;> rfl

/-! ### setRst -/

@[simp] theorem setRst_regs (r : Reg) (e : RstEntry) : (setRst r e s).regs = s.regs := rfl
@[simp] theorem setRst_pc (r : Reg) (e : RstEntry) : (setRst r e s).pc = s.pc := rfl
@[simp] theorem setRst_mem (r : Reg) (e : RstEntry) : (setRst r e s).mem = s.mem := rfl
@[simp] theorem setRst_rst (r : Reg) (e : RstEntry) : (setRst r e s).rst = s.rst.set r.toNat e r.isLt := rfl
@[simp] theorem setRst_iq (r : Reg) (e : RstEntry) : (setRst r e s).iq = s.iq := rfl
@[simp] theorem setRst_jalrWait (r : Reg) (e : RstEntry) : (setRst r e s).jalrWait = s.jalrWait := rfl
@[simp] theorem setRst_rsAlu (r : Reg) (e : RstEntry) : (setRst r e s).rsAlu = s.rsAlu := rfl
@[simp] theorem setRst_rsMd (r : Reg) (e : RstEntry) : (setRst r e s).rsMd = s.rsMd := rfl
@[simp] theorem setRst_rsAgu (r : Reg) (e : RstEntry) : (setRst r e s).rsAgu = s.rsAgu := rfl
@[simp] theorem setRst_rob (r : Reg) (e : RstEntry) : (setRst r e s).rob = s.rob := rfl
@[simp] theorem setRst_lb (r : Reg) (e : RstEntry) : (setRst r e s).lb = s.lb := rfl
@[simp] theorem setRst_nextTag (r : Reg) (e : RstEntry) : (setRst r e s).nextTag = s.nextTag := rfl
@[simp] theorem setRst_cycle (r : Reg) (e : RstEntry) : (setRst r e s).cycle = s.cycle := rfl
@[simp] theorem setRst_pred (r : Reg) (e : RstEntry) : (setRst r e s).pred = s.pred := rfl
@[simp] theorem setRst_status (r : Reg) (e : RstEntry) : (setRst r e s).status = s.status := rfl
@[simp] theorem setRst_cfg (r : Reg) (e : RstEntry) : (setRst r e s).cfg = s.cfg := rfl
@[simp] theorem setRst_stage (r : Reg) (e : RstEntry) : (setRst r e s).stage = s.stage := rfl

/-! ### claim -/

@[simp] theorem claim_regs (r : Reg) (t : Tag) : (claim r t s).regs = s.regs := by unfold claim; split <;> rfl
@[simp] theorem claim_pc (r : Reg) (t : Tag) : (claim r t s).pc = s.pc := by unfold claim; split <;> rfl
@[simp] theorem claim_mem (r : Reg) (t : Tag) : (claim r t s).mem = s.mem := by unfold claim; split <;> rfl
@[simp] theorem claim_rst (r : Reg) (t : Tag) : (claim r t s).rst = if r = 0 then s.rst else s.rst.set r.toNat ⟨true, t⟩ r.isLt := by unfold claim; split <;> simp [setRst, *]
@[simp] theorem claim_iq (r : Reg) (t : Tag) : (claim r t s).iq = s.iq := by unfold claim; split <;> rfl
@[simp] theorem claim_jalrWait (r : Reg) (t : Tag) : (claim r t s).jalrWait = s.jalrWait := by unfold claim; split <;> rfl
@[simp] theorem claim_rsAlu (r : Reg) (t : Tag) : (claim r t s).rsAlu = s.rsAlu := by unfold claim; split <;> rfl
@[simp] theorem claim_rsMd (r : Reg) (t : Tag) : (claim r t s).rsMd = s.rsMd := by unfold claim; split <;> rfl
@[simp] theorem claim_rsAgu (r : Reg) (t : Tag) : (claim r t s).rsAgu = s.rsAgu := by unfold claim; split <;> rfl
@[simp] theorem claim_rob (r : Reg) (t : Tag) : (claim r t s).rob = s.rob := by unfold claim; split <;> rfl
@[simp] theorem claim_lb (r : Reg) (t : Tag) : (claim r t s).lb = s.lb := by unfold claim; split <;> rfl
@[simp] theorem claim_nextTag (r : Reg) (t : Tag) : (claim r t s).nextTag = s.nextTag := by unfold claim; split <;> rfl
@[simp] theorem claim_cycle (r : Reg) (t : Tag) : (claim r t s).cycle = s.cycle := by unfold claim; split <;> rfl
@[simp] theorem claim_pred (r : Reg) (t : Tag) : (claim r t s).pred = s.pred := by unfold claim; split <;> rfl
@[simp] theorem claim_status (r : Reg) (t : Tag) : (claim r t s).status = s.status := by unfold claim; split <;> rfl
@[simp] theorem claim_cfg (r : Reg) (t : Tag) : (claim r t s).cfg = s.cfg := by unfold claim; split <;> rfl
@[simp] theorem claim_stage (r : Reg) (t : Tag) : (claim r t s).stage = s.stage := by unfold claim; split <;> rfl

/-! ### release -/

@[simp] theorem release_regs (r : Reg) (t : Tag) : (release r t s).regs = s.regs := by unfold release; split <;> rfl
@[simp] theorem release_pc (r : Reg) (t : Tag) : (release r t s).pc = s.pc := by unfold release; split <;> rfl
@[simp] theorem release_mem (r : Reg) (t : Tag) : (release r t s).mem = s.mem := by unfold release; split <;> rfl
@[simp] theorem release_iq (r : Reg) (t : Tag) : (release r t s).iq = s.iq := by unfold release; split <;> rfl
@[simp] theorem release_jalrWait (r : Reg) (t : Tag) : (release r t s).jalrWait = s.jalrWait := by unfold release; split <;> rfl
@[simp] theorem release_rsAlu (r : Reg) (t : Tag) : (release r t s).rsAlu = s.rsAlu := by unfold release; split <;> rfl
@[simp] theorem release_rsMd (r : Reg) (t : Tag) : (release r t s).rsMd = s.rsMd := by unfold release; split <;> rfl
@[simp] theorem release_rsAgu (r : Reg) (t : Tag) : (release r t s).rsAgu = s.rsAgu := by unfold release; split <;> rfl
@[simp] theorem release_rob (r : Reg) (t : Tag) : (release r t s).rob = s.rob := by unfold release; split <;> rfl
@[simp] theorem release_lb (r : Reg) (t : Tag) : (release r t s).lb = s.lb := by unfold release; split <;> rfl
@[simp] theorem release_nextTag (r : Reg) (t : Tag) : (release r t s).nextTag = s.nextTag := by unfold release; split <;> rfl
@[simp] theorem release_cycle (r : Reg) (t : Tag) : (release r t s).cycle = s.cycle := by unfold release; split <;> rfl
@[simp] theorem release_pred (r : Reg) (t : Tag) : (release r t s).pred = s.pred := by unfold release; split <;> rfl
@[simp] theorem release_status (r : Reg) (t : Tag) : (release r t s).status = s.status := by unfold release; split <;> rfl
@[simp] theorem release_cfg (r : Reg) (t : Tag) : (release r t s).cfg = s.cfg := by unfold release; split <;> rfl
@[simp] theorem release_stage (r : Reg) (t : Tag) : (release r t s).stage = s.stage := by unfold release; split <;> rfl

/-! ### updateRob -/

@[simp] theorem updateRob_regs (t : Tag) (f : RobEntry → RobEntry) : (updateRob t f s).regs = s.regs := rfl
@[simp] theorem updateRob_pc (t : Tag) (f : RobEntry → RobEntry) : (updateRob t f s).pc = s.pc := rfl
@[simp] theorem updateRob_mem (t : Tag) (f : RobEntry → RobEntry) : (updateRob t f s).mem = s.mem := rfl
@[simp] theorem updateRob_rst (t : Tag) (f : RobEntry → RobEntry) : (updateRob t f s).rst = s.rst := rfl
@[simp] theorem updateRob_iq (t : Tag) (f : RobEntry → RobEntry) : (updateRob t f s).iq = s.iq := rfl
@[simp] theorem updateRob_jalrWait (t : Tag) (f : RobEntry → RobEntry) : (updateRob t f s).jalrWait = s.jalrWait := rfl
@[simp] theorem updateRob_rsAlu (t : Tag) (f : RobEntry → RobEntry) : (updateRob t f s).rsAlu = s.rsAlu := rfl
@[simp] theorem updateRob_rsMd (t : Tag) (f : RobEntry → RobEntry) : (updateRob t f s).rsMd = s.rsMd := rfl
@[simp] theorem updateRob_rsAgu (t : Tag) (f : RobEntry → RobEntry) : (updateRob t f s).rsAgu = s.rsAgu := rfl
@[simp] theorem updateRob_rob (t : Tag) (f : RobEntry → RobEntry) : (updateRob t f s).rob = updateFirst (fun h => h.tag == t) f s.rob := rfl
@[simp] theorem updateRob_lb (t : Tag) (f : RobEntry → RobEntry) : (updateRob t f s).lb = s.lb := rfl
@[simp] theorem updateRob_nextTag (t : Tag) (f : RobEntry → RobEntry) : (updateRob t f s).nextTag = s.nextTag := rfl
@[simp] theorem updateRob_cycle (t : Tag) (f : RobEntry → RobEntry) : (updateRob t f s).cycle = s.cycle := rfl
@[simp] theorem updateRob_pred (t : Tag) (f : RobEntry → RobEntry) : (updateRob t f s).pred = s.pred := rfl
@[simp] theorem updateRob_status (t : Tag) (f : RobEntry → RobEntry) : (updateRob t f s).status = s.status := rfl
@[simp] theorem updateRob_cfg (t : Tag) (f : RobEntry → RobEntry) : (updateRob t f s).cfg = s.cfg := rfl
@[simp] theorem updateRob_stage (t : Tag) (f : RobEntry → RobEntry) : (updateRob t f s).stage = s.stage := rfl

/-! ### setLb -/

@[simp] theorem setLb_regs (l : LbEntry) : (setLb l s).regs = s.regs := rfl
@[simp] theorem setLb_pc (l : LbEntry) : (setLb l s).pc = s.pc := rfl
@[simp] theorem setLb_mem (l : LbEntry) : (setLb l s).mem = s.mem := rfl
@[simp] theorem setLb_rst (l : LbEntry) : (setLb l s).rst = s.rst := rfl
@[simp] theorem setLb_iq (l : LbEntry) : (setLb l s).iq = s.iq := rfl
@[simp] theorem setLb_jalrWait (l : LbEntry) : (setLb l s).jalrWait = s.jalrWait := rfl
@[simp] theorem setLb_rsAlu (l : LbEntry) : (setLb l s).rsAlu = s.rsAlu := rfl
@[simp] theorem setLb_rsMd (l : LbEntry) : (setLb l s).rsMd = s.rsMd := rfl
@[simp] theorem setLb_rsAgu (l : LbEntry) : (setLb l s).rsAgu = s.rsAgu := rfl
@[simp] theorem setLb_rob (l : LbEntry) : (setLb l s).rob = s.rob := rfl
@[simp] theorem setLb_lb (l : LbEntry) : (setLb l s).lb = updateFirst (fun m => m.owner == l.owner) (fun _ => l) s.lb := rfl
@[simp] theorem setLb_nextTag (l : LbEntry) : (setLb l s).nextTag = s.nextTag := rfl
@[simp] theorem setLb_cycle (l : LbEntry) : (setLb l s).cycle = s.cycle := rfl
@[simp] theorem setLb_pred (l : LbEntry) : (setLb l s).pred = s.pred := rfl
@[simp] theorem setLb_status (l : LbEntry) : (setLb l s).status = s.status := rfl
@[simp] theorem setLb_cfg (l : LbEntry) : (setLb l s).cfg = s.cfg := rfl
@[simp] theorem setLb_stage (l : LbEntry) : (setLb l s).stage = s.stage := rfl

/-! ### setMd -/

@[simp] theorem setMd_regs (e : RsEntry) : (setMd e s).regs = s.regs := rfl
@[simp] theorem setMd_pc (e : RsEntry) : (setMd e s).pc = s.pc := rfl
@[simp] theorem setMd_mem (e : RsEntry) : (setMd e s).mem = s.mem := rfl
@[simp] theorem setMd_rst (e : RsEntry) : (setMd e s).rst = s.rst := rfl
@[simp] theorem setMd_iq (e : RsEntry) : (setMd e s).iq = s.iq := rfl
@[simp] theorem setMd_jalrWait (e : RsEntry) : (setMd e s).jalrWait = s.jalrWait := rfl
@[simp] theorem setMd_rsAlu (e : RsEntry) : (setMd e s).rsAlu = s.rsAlu := rfl
@[simp] theorem setMd_rsMd (e : RsEntry) : (setMd e s).rsMd = updateFirst (fun x => x.dest == e.dest) (fun _ => e) s.rsMd := rfl
@[simp] theorem setMd_rsAgu (e : RsEntry) : (setMd e s).rsAgu = s.rsAgu := rfl
@[simp] theorem setMd_rob (e : RsEntry) : (setMd e s).rob = s.rob := rfl
@[simp] theorem setMd_lb (e : RsEntry) : (setMd e s).lb = s.lb := rfl
@[simp] theorem setMd_nextTag (e : RsEntry) : (setMd e s).nextTag = s.nextTag := rfl
@[simp] theorem setMd_cycle (e : RsEntry) : (setMd e s).cycle = s.cycle := rfl
@[simp] theorem setMd_pred (e : RsEntry) : (setMd e s).pred = s.pred := rfl
@[simp] theorem setMd_status (e : RsEntry) : (setMd e s).status = s.status := rfl
@[simp] theorem setMd_cfg (e : RsEntry) : (setMd e s).cfg = s.cfg := rfl
@[simp] theorem setMd_stage (e : RsEntry) : (setMd e s).stage = s.stage := rfl

/-! ### addLb -/

@[simp] theorem addLb_regs (l : LbEntry) : (addLb l s).regs = s.regs := rfl
@[simp] theorem addLb_pc (l : LbEntry) : (addLb l s).pc = s.pc := rfl
@[simp] theorem addLb_mem (l : LbEntry) : (addLb l s).mem = s.mem := rfl
@[simp] theorem addLb_rst (l : LbEntry) : (addLb l s).rst = s.rst := rfl
@[simp] theorem addLb_iq (l : LbEntry) : (addLb l s).iq = s.iq := rfl
@[simp] theorem addLb_jalrWait (l : LbEntry) : (addLb l s).jalrWait = s.jalrWait := rfl
@[simp] theorem addLb_rsAlu (l : LbEntry) : (addLb l s).rsAlu = s.rsAlu := rfl
@[simp] theorem addLb_rsMd (l : LbEntry) : (addLb l s).rsMd = s.rsMd := rfl
@[simp] theorem addLb_rsAgu (l : LbEntry) : (addLb l s).rsAgu = s.rsAgu := rfl
@[simp] theorem addLb_rob (l : LbEntry) : (addLb l s).rob = s.rob := rfl
@[simp] theorem addLb_lb (l : LbEntry) : (addLb l s).lb = insertLb l s.lb := rfl
@[simp] theorem addLb_nextTag (l : LbEntry) : (addLb l s).nextTag = s.nextTag := rfl
@[simp] theorem addLb_cycle (l : LbEntry) : (addLb l s).cycle = s.cycle := rfl
@[simp] theorem addLb_pred (l : LbEntry) : (addLb l s).pred = s.pred := rfl
@[simp] theorem addLb_status (l : LbEntry) : (addLb l s).status = s.status := rfl
@[simp] theorem addLb_cfg (l : LbEntry) : (addLb l s).cfg = s.cfg := rfl
@[simp] theorem addLb_stage (l : LbEntry) : (addLb l s).stage = s.stage := rfl

/-! ### dropAgu -/

@[simp] theorem dropAgu_regs (t : Tag) : (dropAgu t s).regs = s.regs := rfl
@[simp] theorem dropAgu_pc (t : Tag) : (dropAgu t s).pc = s.pc := rfl
@[simp] theorem dropAgu_mem (t : Tag) : (dropAgu t s).mem = s.mem := rfl
@[simp] theorem dropAgu_rst (t : Tag) : (dropAgu t s).rst = s.rst := rfl
@[simp] theorem dropAgu_iq (t : Tag) : (dropAgu t s).iq = s.iq := rfl
@[simp] theorem dropAgu_jalrWait (t : Tag) : (dropAgu t s).jalrWait = s.jalrWait := rfl
@[simp] theorem dropAgu_rsAlu (t : Tag) : (dropAgu t s).rsAlu = s.rsAlu := rfl
@[simp] theorem dropAgu_rsMd (t : Tag) : (dropAgu t s).rsMd = s.rsMd := rfl
@[simp] theorem dropAgu_rsAgu (t : Tag) : (dropAgu t s).rsAgu = s.rsAgu.eraseP fun e => entryReady t e && e.progress == 0 := rfl
@[simp] theorem dropAgu_rob (t : Tag) : (dropAgu t s).rob = s.rob := rfl
@[simp] theorem dropAgu_lb (t : Tag) : (dropAgu t s).lb = s.lb := rfl
@[simp] theorem dropAgu_nextTag (t : Tag) : (dropAgu t s).nextTag = s.nextTag := rfl
@[simp] theorem dropAgu_cycle (t : Tag) : (dropAgu t s).cycle = s.cycle := rfl
@[simp] theorem dropAgu_pred (t : Tag) : (dropAgu t s).pred = s.pred := rfl
@[simp] theorem dropAgu_status (t : Tag) : (dropAgu t s).status = s.status := rfl
@[simp] theorem dropAgu_cfg (t : Tag) : (dropAgu t s).cfg = s.cfg := rfl
@[simp] theorem dropAgu_stage (t : Tag) : (dropAgu t s).stage = s.stage := rfl

/-! ### setAddress -/

@[simp] theorem setAddress_regs (t : Tag) (a : Word) : (setAddress t a s).regs = s.regs := rfl
@[simp] theorem setAddress_pc (t : Tag) (a : Word) : (setAddress t a s).pc = s.pc := rfl
@[simp] theorem setAddress_mem (t : Tag) (a : Word) : (setAddress t a s).mem = s.mem := rfl
@[simp] theorem setAddress_rst (t : Tag) (a : Word) : (setAddress t a s).rst = s.rst := rfl
@[simp] theorem setAddress_iq (t : Tag) (a : Word) : (setAddress t a s).iq = s.iq := rfl
@[simp] theorem setAddress_jalrWait (t : Tag) (a : Word) : (setAddress t a s).jalrWait = s.jalrWait := rfl
@[simp] theorem setAddress_rsAlu (t : Tag) (a : Word) : (setAddress t a s).rsAlu = s.rsAlu := rfl
@[simp] theorem setAddress_rsMd (t : Tag) (a : Word) : (setAddress t a s).rsMd = s.rsMd := rfl
@[simp] theorem setAddress_rsAgu (t : Tag) (a : Word) : (setAddress t a s).rsAgu = s.rsAgu := rfl
@[simp] theorem setAddress_rob (t : Tag) (a : Word) : (setAddress t a s).rob = updateFirst (fun h => h.tag == t) (fun h => { h with addr := a, addrReady := true }) s.rob := rfl
@[simp] theorem setAddress_lb (t : Tag) (a : Word) : (setAddress t a s).lb = s.lb := rfl
@[simp] theorem setAddress_nextTag (t : Tag) (a : Word) : (setAddress t a s).nextTag = s.nextTag := rfl
@[simp] theorem setAddress_cycle (t : Tag) (a : Word) : (setAddress t a s).cycle = s.cycle := rfl
@[simp] theorem setAddress_pred (t : Tag) (a : Word) : (setAddress t a s).pred = s.pred := rfl
@[simp] theorem setAddress_status (t : Tag) (a : Word) : (setAddress t a s).status = s.status := rfl
@[simp] theorem setAddress_cfg (t : Tag) (a : Word) : (setAddress t a s).cfg = s.cfg := rfl
@[simp] theorem setAddress_stage (t : Tag) (a : Word) : (setAddress t a s).stage = s.stage := rfl

/-! ### retire -/

@[simp] theorem retire_regs : (retire s).regs = s.regs := rfl
@[simp] theorem retire_pc : (retire s).pc = s.pc := rfl
@[simp] theorem retire_mem : (retire s).mem = s.mem := rfl
@[simp] theorem retire_rst : (retire s).rst = s.rst := rfl
@[simp] theorem retire_iq : (retire s).iq = s.iq := rfl
@[simp] theorem retire_jalrWait : (retire s).jalrWait = s.jalrWait := rfl
@[simp] theorem retire_rsAlu : (retire s).rsAlu = s.rsAlu := rfl
@[simp] theorem retire_rsMd : (retire s).rsMd = s.rsMd := rfl
@[simp] theorem retire_rsAgu : (retire s).rsAgu = s.rsAgu := rfl
@[simp] theorem retire_rob : (retire s).rob = s.rob.tail := rfl
@[simp] theorem retire_lb : (retire s).lb = s.lb := rfl
@[simp] theorem retire_nextTag : (retire s).nextTag = s.nextTag := rfl
@[simp] theorem retire_cycle : (retire s).cycle = s.cycle := rfl
@[simp] theorem retire_pred : (retire s).pred = s.pred := rfl
@[simp] theorem retire_status : (retire s).status = s.status := rfl
@[simp] theorem retire_cfg : (retire s).cfg = s.cfg := rfl
@[simp] theorem retire_stage : (retire s).stage = s.stage := rfl

/-! ### squash -/

@[simp] theorem squash_regs : (squash s).regs = s.regs := rfl
@[simp] theorem squash_pc : (squash s).pc = s.pc := rfl
@[simp] theorem squash_mem : (squash s).mem = s.mem := rfl
@[simp] theorem squash_rst : (squash s).rst = clearAll := rfl
@[simp] theorem squash_iq : (squash s).iq = [] := rfl
@[simp] theorem squash_jalrWait : (squash s).jalrWait = .none := rfl
@[simp] theorem squash_rsAlu : (squash s).rsAlu = [] := rfl
@[simp] theorem squash_rsMd : (squash s).rsMd = [] := rfl
@[simp] theorem squash_rsAgu : (squash s).rsAgu = [] := rfl
@[simp] theorem squash_rob : (squash s).rob = [] := rfl
@[simp] theorem squash_lb : (squash s).lb = [] := rfl
@[simp] theorem squash_nextTag : (squash s).nextTag = s.nextTag := rfl
@[simp] theorem squash_cycle : (squash s).cycle = s.cycle := rfl
@[simp] theorem squash_pred : (squash s).pred = s.pred := rfl
@[simp] theorem squash_status : (squash s).status = s.status := rfl
@[simp] theorem squash_cfg : (squash s).cfg = s.cfg := rfl
@[simp] theorem squash_stage : (squash s).stage = s.stage := rfl

/-! ### enqueue -/

@[simp] theorem enqueue_regs (o : Op) (p : Bool) (next : Word) : (enqueue o p next s).regs = s.regs := rfl
@[simp] theorem enqueue_pc (o : Op) (p : Bool) (next : Word) : (enqueue o p next s).pc = next := rfl
@[simp] theorem enqueue_mem (o : Op) (p : Bool) (next : Word) : (enqueue o p next s).mem = s.mem := rfl
@[simp] theorem enqueue_rst (o : Op) (p : Bool) (next : Word) : (enqueue o p next s).rst = s.rst := rfl
@[simp] theorem enqueue_iq (o : Op) (p : Bool) (next : Word) : (enqueue o p next s).iq = s.iq ++ [⟨o, s.pc, p⟩] := rfl
@[simp] theorem enqueue_jalrWait (o : Op) (p : Bool) (next : Word) : (enqueue o p next s).jalrWait = s.jalrWait := rfl
@[simp] theorem enqueue_rsAlu (o : Op) (p : Bool) (next : Word) : (enqueue o p next s).rsAlu = s.rsAlu := rfl
@[simp] theorem enqueue_rsMd (o : Op) (p : Bool) (next : Word) : (enqueue o p next s).rsMd = s.rsMd := rfl
@[simp] theorem enqueue_rsAgu (o : Op) (p : Bool) (next : Word) : (enqueue o p next s).rsAgu = s.rsAgu := rfl
@[simp] theorem enqueue_rob (o : Op) (p : Bool) (next : Word) : (enqueue o p next s).rob = s.rob := rfl
@[simp] theorem enqueue_lb (o : Op) (p : Bool) (next : Word) : (enqueue o p next s).lb = s.lb := rfl
@[simp] theorem enqueue_nextTag (o : Op) (p : Bool) (next : Word) : (enqueue o p next s).nextTag = s.nextTag := rfl
@[simp] theorem enqueue_cycle (o : Op) (p : Bool) (next : Word) : (enqueue o p next s).cycle = s.cycle := rfl
@[simp] theorem enqueue_pred (o : Op) (p : Bool) (next : Word) : (enqueue o p next s).pred = s.pred := rfl
@[simp] theorem enqueue_status (o : Op) (p : Bool) (next : Word) : (enqueue o p next s).status = s.status := rfl
@[simp] theorem enqueue_cfg (o : Op) (p : Bool) (next : Word) : (enqueue o p next s).cfg = s.cfg := rfl
@[simp] theorem enqueue_stage (o : Op) (p : Bool) (next : Word) : (enqueue o p next s).stage = s.stage := rfl

/-! ### deliver -/

@[simp] theorem deliver_regs (m : CdbMsg) : (deliver s m).regs = s.regs := rfl
@[simp] theorem deliver_pc (m : CdbMsg) : (deliver s m).pc = s.pc := rfl
@[simp] theorem deliver_mem (m : CdbMsg) : (deliver s m).mem = s.mem := rfl
@[simp] theorem deliver_rst (m : CdbMsg) : (deliver s m).rst = s.rst := rfl
@[simp] theorem deliver_iq (m : CdbMsg) : (deliver s m).iq = s.iq := rfl
@[simp] theorem deliver_jalrWait (m : CdbMsg) : (deliver s m).jalrWait = s.jalrWait := rfl
@[simp] theorem deliver_rsAlu (m : CdbMsg) : (deliver s m).rsAlu = s.rsAlu.map (resolveRs m) := rfl
@[simp] theorem deliver_rsMd (m : CdbMsg) : (deliver s m).rsMd = s.rsMd.map (resolveRs m) := rfl
@[simp] theorem deliver_rsAgu (m : CdbMsg) : (deliver s m).rsAgu = s.rsAgu.map (resolveRs m) := rfl
@[simp] theorem deliver_rob (m : CdbMsg) : (deliver s m).rob = s.rob.map (resolveRob m) := rfl
@[simp] theorem deliver_lb (m : CdbMsg) : (deliver s m).lb = s.lb := rfl
@[simp] theorem deliver_nextTag (m : CdbMsg) : (deliver s m).nextTag = s.nextTag := rfl
@[simp] theorem deliver_cycle (m : CdbMsg) : (deliver s m).cycle = s.cycle := rfl
@[simp] theorem deliver_pred (m : CdbMsg) : (deliver s m).pred = s.pred := rfl
@[simp] theorem deliver_status (m : CdbMsg) : (deliver s m).status = s.status := rfl
@[simp] theorem deliver_cfg (m : CdbMsg) : (deliver s m).cfg = s.cfg := rfl
@[simp] theorem deliver_stage (m : CdbMsg) : (deliver s m).stage = s.stage := rfl

end

end Sys2Proof.Machine
end

