-- ==== Sys2Proof/Laws/Lists.lean ====
section
/-! SUPPORT. The list operations under the pools, the reorder buffer and the load buffer: what each does where the entry
it looks for is known, and where there is none. -/

namespace Sys2Proof.Machine

variable {α β : Type}

/-- updateFirst changes exactly the first element that fits. -/
theorem updateFirst_split {p : α → Bool} {l before after : List α} {x : α} (f : α → α)
    (h : FirstWhere (fun y => p y = true) l before x after) : updateFirst p f l = before ++ f x :: after := by
  obtain ⟨rfl, hx, hb⟩ := h
  induction before with
  | nil => simp [updateFirst, hx]
  | cons y rest ih =>
    have hy : p y = false := by simpa using hb y List.mem_cons_self
    simp only [List.cons_append, updateFirst, hy, Bool.false_eq_true, if_false]
    rw [ih fun z hz => hb z (List.mem_cons_of_mem _ hz)]

theorem updateFirst_none {p : α → Bool} {l : List α} (f : α → α) (h : ∀ y ∈ l, ¬ p y = true) :
    updateFirst p f l = l := by
  induction l with
  | nil => rfl
  | cons y rest ih =>
    have hy : p y = false := by simpa using h y List.mem_cons_self
    simp only [updateFirst, hy, Bool.false_eq_true, if_false]
    rw [ih fun z hz => h z (List.mem_cons_of_mem _ hz)]

/-- A change that keeps a field keeps the list of that field. -/
theorem updateFirst_map {p : α → Bool} {f : α → α} (g : α → β) (h : ∀ x, g (f x) = g x) (l : List α) :
    (updateFirst p f l).map g = l.map g := by
  induction l with
  | nil => rfl
  | cons y rest ih =>
    unfold updateFirst
    split <;> simp [h, ih]

theorem find_split {p : α → Bool} {l before after : List α} {x : α}
    (h : FirstWhere (fun y => p y = true) l before x after) : l.find? p = some x := by
  obtain ⟨rfl, hx, hb⟩ := h
  rw [List.find?_append, List.find?_eq_none.2 (by simpa using hb)]
  simp [hx]

theorem find_none {p : α → Bool} {l : List α} (h : ∀ y ∈ l, ¬ p y = true) : l.find? p = none :=
  List.find?_eq_none.2 (by simpa using h)

/-- Where find? answers, the list splits at its answer. -/
theorem find_some_split {p : α → Bool} {l : List α} {x : α} (h : l.find? p = some x) :
    ∃ before after, FirstWhere (fun y => p y = true) l before x after := by
  obtain ⟨hx, as, bs, rfl, hb⟩ := List.find?_eq_some_iff_append.1 h
  exact ⟨as, bs, rfl, hx, fun y hy => by simpa using hb y hy⟩

theorem eraseP_split {p : α → Bool} {l before after : List α} {x : α}
    (h : FirstWhere (fun y => p y = true) l before x after) : l.eraseP p = before ++ after := by
  obtain ⟨rfl, hx, hb⟩ := h
  rw [List.eraseP_append_right _ (by simpa using hb)]
  simp [hx]

/-- insertLb puts the entry behind those with its owner or an older one, in front of the first younger one. -/
theorem insertLb_split (l : LbEntry) (es : List LbEntry) :
    ∃ lo hi, es = lo ++ hi ∧ (∀ m ∈ lo, m.owner ≤ l.owner) ∧ (∀ m ∈ hi.head?, l.owner < m.owner) ∧
      insertLb l es = lo ++ l :: hi := by
  induction es with
  | nil => exact ⟨[], [], rfl, by simp, by simp, rfl⟩
  | cons m rest ih =>
    by_cases hm : l.owner < m.owner
    · exact ⟨[], m :: rest, rfl, by simp, by simpa using hm, by simp [insertLb, hm]⟩
    · obtain ⟨lo, hi, rfl, hlo, hhi, he⟩ := ih
      refine ⟨m :: lo, hi, rfl, ?_, hhi, by simp [insertLb, hm, he]⟩
      intro y hy
      rcases List.mem_cons.1 hy with rfl | hy
      · exact Nat.not_lt.1 hm
      · exact hlo y hy

theorem mem_insertLb (l m : LbEntry) (es : List LbEntry) : m ∈ insertLb l es ↔ m = l ∨ m ∈ es := by
  obtain ⟨lo, hi, rfl, _, _, he⟩ := insertLb_split l es
  rw [he]
  simp only [List.mem_append, List.mem_cons]
  exact or_left_comm

/-! ### The owner of a tag -/

theorem robAt_owner {s : State} {t : Tag} {older younger : List RobEntry} {h : RobEntry}
    (o : Owner s t older h younger) : robAt s t = some h :=
  find_split ⟨o.1, by simpa using o.2.1, fun y hy => by simpa using o.2.2 y hy⟩

theorem robAt_absent {s : State} {t : Tag} (h : ¬ TagPresent s t) : robAt s t = none :=
  find_none fun y hy => by simpa using fun e => h ⟨y, hy, e⟩

theorem owner_of_robAt {s : State} {t : Tag} {h : RobEntry} (e : robAt s t = some h) :
    ∃ older younger, Owner s t older h younger := by
  obtain ⟨older, younger, h1, h2, h3⟩ := find_some_split e
  exact ⟨older, younger, h1, by simpa using h2, fun y hy => by simpa using h3 y hy⟩

/-- rob.older(T), youngest first. -/
theorem olderThan_owner {s : State} {t : Tag} {older younger : List RobEntry} {h : RobEntry}
    (o : Owner s t older h younger) : olderThan s t = older.reverse := by
  obtain ⟨e, rfl, hb⟩ := o
  unfold olderThan
  rw [e, List.takeWhile_append_of_pos (by simpa using hb)]
  simp

theorem updateRob_owner {s : State} {t : Tag} {older younger : List RobEntry} {h : RobEntry}
    (f : RobEntry → RobEntry) (o : Owner s t older h younger) :
    updateRob t f s = { s with rob := older ++ f h :: younger } := by
  unfold updateRob
  rw [updateFirst_split f ⟨o.1, by simpa using o.2.1, fun y hy => by simpa using o.2.2 y hy⟩]

end Sys2Proof.Machine
end

