-- ==== Sys2Proof/Laws/Memory.lean ====
section
/-! SUPPORT. The memory operations keep the canonical form, and a cell reads what was written to it. -/

namespace Sys2Proof.Machine

/-- What a write lists is the written cell or an older one. -/
theorem mem_writeCell (m : Memory) (a : Nat) (v : Byte) (c : Host.Cell) (h : c ∈ writeCell m a v) :
    (c = (a, v) ∧ v ≠ unlistedByte) ∨ c ∈ m := by
  induction m with
  | nil =>
    unfold writeCell at h
    split at h
    · exact absurd h (by simp)
    · exact .inl ⟨by simpa using h, by assumption⟩
  | cons d rest ih =>
    obtain ⟨k, b⟩ := d
    unfold writeCell at h
    split at h
    · rename_i hk
      split at h
      · exact .inr (List.mem_cons_of_mem _ h)
      · rename_i hv
        rcases List.mem_cons.1 h with h | h
        · exact .inl ⟨by rw [h, hk], hv⟩
        · exact .inr (List.mem_cons_of_mem _ h)
    · split at h
      · split at h
        · exact .inr h
        · rename_i hv
          rcases List.mem_cons.1 h with h | h
          · exact .inl ⟨h, hv⟩
          · exact .inr h
      · rcases List.mem_cons.1 h with h | h
        · exact .inr (h ▸ List.mem_cons_self)
        · exact (ih h).imp id (List.mem_cons_of_mem _)

/-- A write keeps the addresses strictly rising. -/
theorem writeCell_pairwise (m : Memory) (a : Nat) (v : Byte) (h : m.Pairwise (fun c d => c.1 < d.1)) :
    (writeCell m a v).Pairwise (fun c d => c.1 < d.1) := by
  induction m with
  | nil =>
    unfold writeCell
    split <;> simp
  | cons d rest ih =>
    obtain ⟨k, b⟩ := d
    have hr := (List.pairwise_cons.1 h).2
    have hk := (List.pairwise_cons.1 h).1
    unfold writeCell
    split
    · split
      · exact hr
      · exact List.pairwise_cons.2 ⟨hk, hr⟩
    · rename_i hne
      split
      · rename_i hlt
        split
        · exact h
        · refine List.pairwise_cons.2 ⟨fun c hc => ?_, h⟩
          rcases List.mem_cons.1 hc with rfl | hc
          · exact hlt
          · exact Nat.lt_trans hlt (hk c hc)
      · rename_i hge
        refine List.pairwise_cons.2 ⟨fun c hc => ?_, ih hr⟩
        rcases mem_writeCell rest a v c hc with ⟨rfl, _⟩ | hc
        · show k < a
          omega
        · exact hk c hc

/-- A write to an address of the space keeps the canonical form. -/
theorem writeCell_wf (m : Memory) (a : Nat) (v : Byte) (ha : a < 2 ^ 32) (h : Memory.wf m) :
    Memory.wf (writeCell m a v) := by
  refine ⟨writeCell_pairwise m a v h.1, fun c hc => ?_⟩
  rcases mem_writeCell m a v c hc with ⟨rfl, hv⟩ | hc
  · exact ⟨ha, hv⟩
  · exact h.2 c hc

theorem writeByte_wf (m : Memory) (a : Word) (v : Byte) (h : Memory.wf m) : Memory.wf (writeByte m a v) :=
  writeCell_wf m a.toNat v a.isLt h

/-- MemWrite keeps the canonical form. -/
theorem memWrite_wf (m : Memory) (a : Word) (n : Nat) (v : Word) (h : Memory.wf m) : Memory.wf (memWrite m a n v) := by
  induction n generalizing m a v with
  | zero => exact h
  | succ n ih => exact ih _ _ _ (writeByte_wf m a _ h)

/-- What the dispatcher writes keeps the canonical form. -/
theorem writeBytes_wf (m : Memory) (ws : List (Word × Byte)) (h : Memory.wf m) : Memory.wf (writeBytes m ws) := by
  induction ws generalizing m with
  | nil => exact h
  | cons w rest ih => exact ih _ (writeByte_wf m w.1 w.2 h)

/-- The reset memory has the canonical form. -/
theorem reset_mem_wf : Memory.wf State.reset.mem := by decide

/-- An address below every listed one reads as unlisted. -/
theorem readCell_below (m : Memory) (a : Nat) (h : ∀ c ∈ m, a < c.1) : readCell m a = unlistedByte := by
  induction m with
  | nil => rfl
  | cons d rest ih =>
    have hd := h d List.mem_cons_self
    unfold readCell
    rw [if_neg (by omega)]
    exact ih fun c hc => h c (List.mem_cons_of_mem _ hc)

/-- A written cell reads what was written. -/
theorem readCell_writeCell_same (m : Memory) (a : Nat) (v : Byte) (h : m.Pairwise (fun c d => c.1 < d.1)) :
    readCell (writeCell m a v) a = v := by
  induction m with
  | nil =>
    unfold writeCell
    split
    · rename_i hv
      rw [hv]
      rfl
    · simp [readCell]
  | cons d rest ih =>
    obtain ⟨k, b⟩ := d
    have hr := (List.pairwise_cons.1 h).2
    have hk := (List.pairwise_cons.1 h).1
    unfold writeCell
    split
    · rename_i hak
      split
      · rename_i hv
        rw [hv]
        exact readCell_below rest a fun c hc => hak ▸ hk c hc
      · simp [readCell, hak]
    · rename_i hne
      split
      · rename_i hlt
        split
        · rename_i hv
          rw [hv]
          refine readCell_below _ a fun c hc => ?_
          rcases List.mem_cons.1 hc with rfl | hc
          · exact hlt
          · exact Nat.lt_trans hlt (hk c hc)
        · simp [readCell]
      · simp [readCell, hne, ih hr]

/-- Every other cell reads as before. -/
theorem readCell_writeCell_other (m : Memory) (a b : Nat) (v : Byte) (h : b ≠ a) :
    readCell (writeCell m a v) b = readCell m b := by
  induction m with
  | nil =>
    unfold writeCell
    split
    · rfl
    · simp [readCell, h]
  | cons d rest ih =>
    obtain ⟨k, c⟩ := d
    unfold writeCell
    split
    · rename_i hak
      split <;> simp [readCell, ← hak, h]
    · split
      · split <;> simp [readCell, h]
      · simp [readCell, ih]

end Sys2Proof.Machine
end

