-- ==== Sys2Proof/Laws/Ops.lean ====
section
/-! SUPPORT. One lemma per shared operation that says what it can do: the sequencing, exec itself, the access checks, the
rename read, issue, the units, commit and the harvest. -/

namespace Sys2Proof.Machine

/-! ### Outcomes -/

/-- andThen answers next: either the first part left Running and the second ran, or the first part stopped the tick. -/
theorem andThen_next {o : Out} {f : State → Out} {t : State} (h : andThen o f = .next t) :
    ∃ s, o = .next s ∧ ((s.status = .running ∧ f s = .next t) ∨ (s.status ≠ .running ∧ t = s)) := by
  unfold andThen at h
  split at h
  · rename_i s
    refine ⟨s, rfl, ?_⟩
    split at h
    · exact .inl ⟨by assumption, h⟩
    · rename_i hs
      exact .inr ⟨hs, by simpa using h.symm⟩
  · cases h
  · cases h

@[simp] theorem andThen_running {s : State} {f : State → Out} (h : s.status = .running) :
    andThen (.next s) f = f s := by simp [andThen, h]

@[simp] theorem andThen_stopped {s : State} {f : State → Out} (h : s.status ≠ .running) :
    andThen (.next s) f = .next s := by simp [andThen, h]

/-- The life of an instruction, stage by stage. -/
theorem life_fetch {s : State} (h : s.stage = .fetch) (f i : State → State) (e l : Tag → State → State)
    (c : State → State) : life f i e l c s = .next (f s) := by simp [life, h]

theorem life_issue {s : State} (h : s.stage = .issue) (f i : State → State) (e l : Tag → State → State)
    (c : State → State) : life f i e l c s = .next (i s) := by simp [life, h]

theorem life_execute {s : State} {t : Tag} (h : s.stage = .execute t) (f i : State → State) (e l : Tag → State → State)
    (c : State → State) : life f i e l c s = .next (e t s) := by simp [life, h]

theorem life_load {s : State} {t : Tag} (h : s.stage = .load t) (f i : State → State) (e l : Tag → State → State)
    (c : State → State) : life f i e l c s = .next (l t s) := by simp [life, h]

theorem life_commit {s : State} (h : s.stage = .commit) (f i : State → State) (e l : Tag → State → State)
    (c : State → State) : life f i e l c s = .next (c s) := by simp [life, h]

/-- exec always answers a next state: what stops the machine is the status of that state. -/
theorem exec_next (i : Instr) (s : State) : ∃ t, exec i s = .next t := by
  cases i <;> exact ⟨_, rfl⟩

theorem execOp_next (o : Op) (s : State) : ∃ t, execOp o s = .next t := by
  cases o with
  | ins i => exact exec_next i s
  | nop => exact ⟨_, rfl⟩

theorem execAt_next (p : Stage) (o : Op) (s : State) :
    ∃ t : State, execOp o { s with stage := p } = .next t ∧ execAt p o s = .next { t with stage := .fetch } := by
  obtain ⟨t, h⟩ := execOp_next o { s with stage := p }
  exact ⟨t, h, by simp [execAt, rest, h]⟩

/-! ### Registers and the status table -/

/-- A register write changes the register file alone. -/
theorem writeReg_eq (r : Reg) (v : Word) (s : State) : writeReg r v s = { s with regs := regsWith s r v } := by
  unfold writeReg regsWith
  split <;> rfl

/-- A claim changes the status table alone. -/
theorem claim_eq (r : Reg) (t : Tag) (s : State) : claim r t s = { s with rst := rstClaimed s r t } := by
  unfold claim rstClaimed
  split <;> rfl

/-- A release changes the status table alone, and only for the owner. -/
theorem release_eq (r : Reg) (t : Tag) (s : State) : release r t s = { s with rst := rstReleased s r t } := by
  unfold release rstReleased rstAt
  have h : ∀ e : RstEntry, (e.busy = true ∧ e.tag = t) ↔ e = ⟨true, t⟩ := fun e => by cases e; simp
  simp only [h]
  split <;> rfl

/-- The write-back of a retiring entry. -/
theorem writeBack_eq (h : RobEntry) (s : State) :
    writeBack h s = { s with regs := regsWith s h.dest h.result, rst := rstReleased s h.dest h.tag } := by
  unfold writeBack
  rw [writeReg_eq, release_eq]
  rfl

theorem squash_eq (s : State) : squash s = squashed s := rfl

/-! ### Access checks -/

theorem mappedByte_iff (c : Config) (a : Word) : mappedByte c a = true ↔ IsMapped c a := by
  simp [mappedByte, IsMapped]

/-- The recursive check is the check of every byte. -/
theorem mappedAll_iff (c : Config) (a : Word) (n : Nat) : mappedAll c a n = true ↔ InRange c a n := by
  induction n generalizing a with
  | zero => simp [mappedAll, InRange]
  | succ n ih =>
    simp only [mappedAll, Bool.and_eq_true, mappedByte_iff, ih]
    constructor
    · rintro ⟨h0, hs⟩ k hk
      cases k with
      | zero => simpa using h0
      | succ k =>
        have := hs k (by omega)
        rwa [show a + 1 + BitVec.ofNat 32 k = a + BitVec.ofNat 32 (k + 1) by
          rw [BitVec.ofNat_add, BitVec.add_assoc, BitVec.add_comm 1]; rfl] at this
    · intro h
      refine ⟨by simpa using h 0 (by omega), fun k hk => ?_⟩
      have := h (k + 1) (by omega)
      rwa [show a + 1 + BitVec.ofNat 32 k = a + BitVec.ofNat 32 (k + 1) by
        rw [BitVec.ofNat_add, BitVec.add_assoc, BitVec.add_comm 1]; rfl]

/-- An access fault is Misaligned or MemoryFault at the access's own address. -/
theorem accessFault_some {c : Config} {a : Word} {n : Nat} {f : Fault} (h : accessFault c a n = some f) :
    f = .misaligned a ∨ f = .memoryFault a := by
  unfold accessFault at h
  split at h
  · exact .inl (by simpa using h.symm)
  · split at h
    · exact .inr (by simpa using h.symm)
    · cases h

/-! ### Issue -/

/-- The rename read asks nothing of iq and next_tag. -/
theorem readOperands_pop (s : State) (iq : List Decoded) (n : Nat) (pc : Word) (j k : Operand) (d : Option Reg) :
    readOperands { s with iq := iq, nextTag := n } pc j k d = readOperands s pc j k d := rfl

/-- What issue does: nothing, a stale tag after the pop, or the two entries and the claim. -/
theorem issueAs_cases (form : IssueForm) (s : State) :
    (s.iq = [] ∧ issueAs form s = s) ∨
    (∃ r tail q, s.iq = r :: tail ∧ readOperands s r.pc form.j form.k form.data = .stale q ∧
      issueAs form s = { s with iq := tail, nextTag := s.nextTag + 1, status := .faulted (.staleTag q) }) ∨
    (∃ r tail j k d, s.iq = r :: tail ∧ readOperands s r.pc form.j form.k form.data = .slots j k d ∧
      issueAs form s = claim form.dest s.nextTag (setPool form.pool
        (poolOf s form.pool ++ [newRsEntry form r s.nextTag j k])
        { s with iq := tail, nextTag := s.nextTag + 1, rob := s.rob ++ [newRobEntry form r s.nextTag d] })) := by
  unfold issueAs
  split
  · exact .inl ⟨by assumption, rfl⟩
  · rename_i r tail he
    refine .inr ?_
    dsimp only
    rw [readOperands_pop]
    split
    · exact .inl ⟨r, tail, _, he, by assumption, rfl⟩
    · rename_i j k d hr
      refine .inr ⟨r, tail, j, k, d, he, hr, ?_⟩
      cases form.pool <;> rfl

/-! ### Units -/

/-- The ALU step where an entry is ready: that entry alone changes. -/
theorem aluEvaluate_split {s : State} {t : Tag} {before after : List RsEntry} {e : RsEntry}
    (f : Word → Word → Word → Word)
    (h : FirstWhere (fun x => Eligible t x ∧ x.progress = 0) s.rsAlu before e after) :
    aluEvaluate f t s =
      { s with rsAlu := before ++ { e with result := f e.vj e.vk e.ins.pc, progress := 1 } :: after } := by
  obtain ⟨h1, h2, h3⟩ := h
  unfold aluEvaluate
  rw [updateFirst_split (before := before) (after := after) (x := e) _ ⟨h1, ?_, ?_⟩]
  · simpa [entryReady, RsEntry.ready, Eligible, and_assoc] using h2
  · intro y hy
    simpa [entryReady, RsEntry.ready, Eligible, and_assoc] using h3 y hy

/-- The ALU step where none is ready. -/
theorem aluEvaluate_none {s : State} {t : Tag} (f : Word → Word → Word → Word)
    (h : ∀ x ∈ s.rsAlu, ¬ (Eligible t x ∧ x.progress = 0)) : aluEvaluate f t s = s := by
  unfold aluEvaluate
  rw [updateFirst_none]
  intro y hy
  simpa [entryReady, RsEntry.ready, Eligible, and_assoc] using h y hy

/-- One tick of the MULDIV unit on the entry of a tag. -/
theorem mdAdvance_split {s : State} {t : Tag} {before after : List RsEntry} {e : RsEntry} {lat : Nat}
    (f : Word → Word → Option Word) (op : DivOp)
    (h : FirstWhere (fun x => x.dest = t) s.rsMd before e after) (hj : e.qj = 0) (hk : e.qk = 0)
    (hp : e.progress < lat) :
    mdAdvance lat f op t s =
      if e.progress + 1 = lat then
        match f e.vj e.vk with
        | some v => { s with rsMd := before ++ { e with progress := e.progress + 1, result := v } :: after }
        | none => { s with
            rsMd := before ++ { e with progress := e.progress + 1 } :: after
            status := .faulted (.divFault e.ins.pc op e.vj e.vk) }
      else { s with rsMd := before ++ { e with progress := e.progress + 1 } :: after } := by
  obtain ⟨h1, h2, h3⟩ := h
  have hf : s.rsMd.find? (fun e => entryReady t e && decide (e.progress < lat)) = some e :=
    find_split ⟨h1, by simp [entryReady, RsEntry.ready, h2, hj, hk, hp],
      fun y hy => by simp [entryReady, RsEntry.ready, h3 y hy]⟩
  have hs : ∀ e' : RsEntry, e'.dest = t → setMd e' s = { s with rsMd := before ++ e' :: after } := by
    intro e' he
    unfold setMd
    rw [updateFirst_split (before := before) (after := after) (x := e) _ ⟨h1, by simp [h2, he], ?_⟩]
    intro y hy
    simpa [he] using h3 y hy
  unfold mdAdvance
  rw [hf]
  dsimp only
  split
  · cases f e.vj e.vk with
    | some v => exact hs _ h2
    | none =>
      exact congrArg (raise (.divFault e.ins.pc op e.vj e.vk)) (hs { e with progress := e.progress + 1 } h2)
  · exact hs _ h2

theorem mdAdvance_none {s : State} {t : Tag} {lat : Nat} (f : Word → Word → Option Word) (op : DivOp)
    (h : ∀ x ∈ s.rsMd, ¬ (Eligible t x ∧ x.progress < lat)) : mdAdvance lat f op t s = s := by
  unfold mdAdvance
  rw [find_none]
  intro y hy
  simpa [entryReady, RsEntry.ready, Eligible, and_assoc] using h y hy

/-- Where address generation finds its entry. -/
theorem aguEntry_split {s : State} {t : Tag} {before after : List RsEntry} {e : RsEntry}
    (h : FirstWhere (fun x => Eligible t x ∧ x.progress = 0) s.rsAgu before e after) :
    aguEntry t s = some e ∧ dropAgu t s = { s with rsAgu := before ++ after } := by
  obtain ⟨h1, h2, h3⟩ := h
  have hs : FirstWhere (fun x => (entryReady t x && x.progress == 0) = true) s.rsAgu before e after :=
    ⟨h1, by simpa [entryReady, RsEntry.ready, Eligible, and_assoc] using h2,
      fun y hy => by simpa [entryReady, RsEntry.ready, Eligible, and_assoc] using h3 y hy⟩
  exact ⟨find_split hs, by unfold dropAgu; rw [eraseP_split hs]⟩

theorem aguEntry_none {s : State} {t : Tag} (h : ∀ x ∈ s.rsAgu, ¬ (Eligible t x ∧ x.progress = 0)) :
    aguEntry t s = none := by
  refine find_none fun y hy => ?_
  simpa [entryReady, RsEntry.ready, Eligible, and_assoc] using h y hy

/-! ### The load buffer -/

/-- The scan goes on over what it passes by. -/
theorem scanOlder_passed {c : Config} {l : LbEntry} {wl : Width} {passed rest : List RobEntry}
    (h : ∀ x ∈ passed, Passed l.addr x) : scanOlder c l wl (passed ++ rest) = scanOlder c l wl rest := by
  induction passed with
  | nil => rfl
  | cons x xs ih =>
    have hx := h x List.mem_cons_self
    have hr := ih fun y hy => h y (List.mem_cons_of_mem _ hy)
    rw [List.cons_append, scanOlder]
    rcases hx with hx | ⟨ha, hne⟩
    · rw [hx]
      exact hr
    · split
      · exact hr
      · rw [if_neg (by simp [ha]), if_neg hne]
        exact hr

/-- The answer of the scan, once its owner is known. -/
theorem disambiguate_owner {s : State} {l : LbEntry} {older younger : List RobEntry} {g : RobEntry} (wl : Width)
    (o : Owner s l.owner older g younger) : disambiguate s l wl = scanOlder s.cfg l wl older.reverse := by
  unfold disambiguate
  rw [robAt_owner o, olderThan_owner o]

theorem setLb_split {s : State} {before after : List LbEntry} {l m : LbEntry}
    (h : FirstWhere (fun x => x.owner = m.owner) s.lb before l after) :
    setLb m s = { s with lb := before ++ m :: after } := by
  unfold setLb
  rw [updateFirst_split (before := before) (after := after) (x := l) _
    ⟨h.1, by simpa using h.2.1, fun y hy => by simpa using h.2.2 y hy⟩]

/-- The load-buffer step has nothing to do for this tag. -/
theorem lbAdvance_none {s : State} {t : Tag} (wl : Width) (fin : LbEntry → Word → State → State)
    (h : ∀ l ∈ s.lb, ¬ Working s t l) : lbAdvance wl fin t s = s := by
  unfold lbAdvance
  rw [find_none]
  intro y hy
  simpa [Working] using h y hy

/-- The load-buffer step on the entry it works on: the scan first, unless the entry is cleared. -/
theorem lbAdvance_split {s : State} {t : Tag} {before after : List LbEntry} {l : LbEntry} (wl : Width)
    (fin : LbEntry → Word → State → State) (h : FirstWhere (Working s t) s.lb before l after) :
    lbAdvance wl fin t s =
      if l.cleared then lbProceed wl fin l s
      else match disambiguate s l wl with
        | .stall => s
        | .forward v => lbProceed wl fin (clearedEntry l (some v)) s
        | .memory => lbProceed wl fin (clearedEntry l none) s
        | .fault f => raise f s := by
  unfold lbAdvance
  rw [find_split (x := l) (before := before) (after := after) ⟨h.1, by simpa [Working] using h.2.1,
    fun y hy => by simpa [Working] using h.2.2 y hy⟩]
  all_goals rfl

/-! ### The harvest -/

/-- The harvest loop changes only the pools, the load buffer, the reorder buffer and the status. -/
theorem harvestAll_frame (xs : List Harvested) (s : State) (ms : List CdbMsg) :
    (harvestAll xs s ms).1.regs = s.regs ∧ (harvestAll xs s ms).1.mem = s.mem ∧ (harvestAll xs s ms).1.pc = s.pc ∧
    (harvestAll xs s ms).1.rst = s.rst ∧ (harvestAll xs s ms).1.iq = s.iq ∧
    (harvestAll xs s ms).1.jalrWait = s.jalrWait ∧ (harvestAll xs s ms).1.nextTag = s.nextTag ∧
    (harvestAll xs s ms).1.cycle = s.cycle ∧ (harvestAll xs s ms).1.pred = s.pred ∧
    (harvestAll xs s ms).1.cfg = s.cfg ∧ (harvestAll xs s ms).1.stage = s.stage := by
  induction xs generalizing s ms with
  | nil => simp [harvestAll]
  | cons x xs ih =>
    unfold harvestAll
    dsimp only
    split
    · cases hx : x.src <;> simp [removeHarvested, hx]
    · refine ⟨?_, ?_, ?_, ?_, ?_, ?_, ?_, ?_, ?_, ?_, ?_⟩ <;> (simp only [ih]; cases hx : x.src <;> simp [removeHarvested, hx])

/-- Delivering messages changes only the pools and the reorder buffer. -/
theorem deliver_frame (ms : List CdbMsg) (s : State) :
    (ms.foldl deliver s).regs = s.regs ∧ (ms.foldl deliver s).mem = s.mem ∧ (ms.foldl deliver s).pc = s.pc ∧
    (ms.foldl deliver s).rst = s.rst ∧ (ms.foldl deliver s).iq = s.iq ∧
    (ms.foldl deliver s).jalrWait = s.jalrWait ∧ (ms.foldl deliver s).lb = s.lb ∧
    (ms.foldl deliver s).nextTag = s.nextTag ∧ (ms.foldl deliver s).cycle = s.cycle ∧
    (ms.foldl deliver s).pred = s.pred ∧ (ms.foldl deliver s).cfg = s.cfg ∧
    (ms.foldl deliver s).status = s.status ∧ (ms.foldl deliver s).stage = s.stage := by
  induction ms generalizing s with
  | nil => simp
  | cons m ms ih => simpa using ih (deliver s m)

/-- The broadcast stage changes only the pools, the load buffer, the reorder buffer and the status. -/
theorem broadcastStage_frame {s t : State} (h : broadcastStage s = .next t) :
    t.regs = s.regs ∧ t.mem = s.mem ∧ t.pc = s.pc ∧ t.rst = s.rst ∧ t.iq = s.iq ∧ t.jalrWait = s.jalrWait ∧
    t.nextTag = s.nextTag ∧ t.cycle = s.cycle ∧ t.pred = s.pred ∧ t.cfg = s.cfg ∧ t.stage = s.stage := by
  obtain ⟨h1, h2, h3, h4, h5, h6, h7, h8, h9, h10, h11⟩ := harvestAll_frame (harvestSet s) s []
  unfold broadcastStage at h
  dsimp only at h
  split at h
  · cases h
    obtain ⟨d1, d2, d3, d4, d5, d6, _, d8, d9, d10, d11, _, d13⟩ :=
      deliver_frame (harvestAll (harvestSet s) s []).2 (harvestAll (harvestSet s) s []).1
    exact ⟨d1.trans h1, d2.trans h2, d3.trans h3, d4.trans h4, d5.trans h5, d6.trans h6, d8.trans h7, d9.trans h8,
      d10.trans h9, d11.trans h10, d13.trans h11⟩
  · cases h
    exact ⟨h1, h2, h3, h4, h5, h6, h7, h8, h9, h10, h11⟩

end Sys2Proof.Machine
end

