-- ==== Sys2Proof/Laws/Dispatch.lean ====
section
/-! SUPPORT. exec by stage: which shared operation an instruction runs there, one lemma per stage and kind, each by one
case split over the instructions. -/

namespace Sys2Proof.Machine

variable {i : Instr} {s : State} {t : Tag}

/-! ### Fetch -/

theorem exec_fetch_next (hs : s.stage = .fetch) (hb : kindOf i ≠ .branch) (hj : isJal i = false)
    (hr : isJalr i = false) (hn : kindOf i ≠ .suppressed) (hf : kindOf i ≠ .refused) :
    exec i s = .next (fetchNext i s) := by
  cases i <;> first
    | exact absurd rfl hb
    | exact absurd rfl hn
    | exact absurd rfl hf
    | exact life_fetch hs _ _ _ _ _
    | exact absurd hj (fun h => Bool.noConfusion h)
    | exact absurd hr (fun h => Bool.noConfusion h)

theorem exec_fetch_branch {x : Reg → Word} {taken : Bool} {imm : Word} (hs : s.stage = .fetch)
    (h : branchShape i x = some (taken, imm)) : exec i s = .next (fetchBranch i imm s) := by
  cases i <;> cases h <;> exact life_fetch hs _ _ _ _ _

theorem exec_fetch_suppressed (hs : s.stage = .fetch) (h : kindOf i = .suppressed) : exec i s = .next (fetchNop s) := by
  cases i <;> cases h <;> exact life_fetch hs _ _ _ _ _

theorem refusedLife_eq (s : State) : refusedLife s = .next (fetchRefused s) := by
  unfold refusedLife life
  split <;> rfl

theorem exec_refused (h : kindOf i = .refused) : exec i s = .next (fetchRefused s) := by
  cases i <;> cases h <;> exact refusedLife_eq s

/-! ### Issue -/

theorem exec_issue {form : IssueForm} (hs : s.stage = .issue) (h : issueTable i = some form) (hj : isJalr i = false) :
    exec i s = .next (issueAs form s) := by
  cases i <;> cases h <;> first
    | exact life_issue hs _ _ _ _ _
    | exact absurd hj (fun h => Bool.noConfusion h)

theorem exec_issue_jalr {form : IssueForm} (hs : s.stage = .issue) (h : issueTable i = some form)
    (hj : isJalr i = true) : exec i s = .next (issueJalr form s) := by
  cases i <;> cases hj
  cases h
  exact life_issue hs _ _ _ _ _

/-! ### Execute -/

/-- The ALU-pool instructions at the execute stage, each with its own function. -/
theorem exec_execute_alu (hs : s.stage = .execute t) (h : kindOf i = .alu ∨ kindOf i = .branch ∨ kindOf i = .syscall ∨
    kindOf i = .suppressed) : ∃ f, exec i s = .next (aluEvaluate f t s) := by
  rcases h with h | h | h | h <;> cases i <;> cases h <;> exact ⟨_, life_execute hs _ _ _ _ _⟩

theorem exec_execute_mul (hs : s.stage = .execute t) (h : kindOf i = .mul) :
    ∃ f : Word → Word → Word, exec i s = .next (mdAdvance s.cfg.mulLat (fun j k => some (f j k)) .div t s) := by
  cases i <;> cases h <;> exact ⟨_, life_execute hs _ _ _ _ _⟩

theorem exec_execute_div {op : DivOp} (hs : s.stage = .execute t) (h : divOpOf i = some op) :
    exec i s = .next (mdAdvance s.cfg.divLat (divide s.cfg.divCorner op) op t s) := by
  cases i <;> cases h <;> exact life_execute hs _ _ _ _ _

theorem exec_execute_load (hs : s.stage = .execute t) (h : kindOf i = .load) : exec i s = .next (aguLoad t s) := by
  cases i <;> cases h <;> exact life_execute hs _ _ _ _ _

theorem exec_execute_store {w : Width} (hs : s.stage = .execute t) (h : kindOf i = .store w) :
    exec i s = .next (aguStore t s) := by
  cases i <;> cases h <;> exact life_execute hs _ _ _ _ _

theorem exec_execute_amo (hs : s.stage = .execute t) (h : kindOf i = .amo) : exec i s = .next (aguAmo t s) := by
  cases i <;> cases h <;> exact life_execute hs _ _ _ _ _

theorem exec_execute_loadReserved (hs : s.stage = .execute t) (h : kindOf i = .loadReserved) :
    exec i s = .next (aguLoadReserved t s) := by
  cases i <;> cases h <;> exact life_execute hs _ _ _ _ _

/-! ### The load buffer -/

theorem exec_load_load {w : Width} {sign : Bool} {rd a : Reg} {imm : Word} (hs : s.stage = .load t)
    (h : loadShape i = some (w, sign, rd, a, imm)) : exec i s = .next (lbAdvance w (finishLoad w sign) t s) := by
  cases i <;> cases h <;> exact life_load hs _ _ _ _ _

theorem exec_load_amo (hs : s.stage = .load t) (h : kindOf i = .amo) :
    ∃ result new : Word → Word → Word, exec i s = .next (lbAdvance .word (finishAmo result new) t s) ∧
      ∀ old src, result old src = amoResult s.cfg i old ∧ amoTable i old src = some (new old src) := by
  cases i <;> cases h <;> exact ⟨_, _, life_load hs _ _ _ _ _, fun _ _ => ⟨rfl, rfl⟩⟩

theorem exec_load_other (hs : s.stage = .load t) (hl : kindOf i ≠ .load) (ha : kindOf i ≠ .amo)
    (hr : kindOf i ≠ .refused) : exec i s = .next s := by
  cases i <;> first
    | exact absurd rfl hl
    | exact absurd rfl ha
    | exact absurd rfl hr
    | exact life_load hs _ _ _ _ _

/-! ### Commit -/

theorem exec_commit_other (hs : s.stage = .commit) (h : kindOf i = .alu ∨ kindOf i = .mul ∨ kindOf i = .div ∨
    kindOf i = .load ∨ kindOf i = .loadReserved ∨ kindOf i = .suppressed) : exec i s = .next (commitOther s) := by
  rcases h with h | h | h | h | h | h <;> cases i <;> cases h <;> exact life_commit hs _ _ _ _ _

theorem exec_commit_store {w : Width} (hs : s.stage = .commit) (h : storeWidth (.ins i) = some w) :
    exec i s = .next (commitStore w s) := by
  cases i <;> cases h <;> exact life_commit hs _ _ _ _ _

theorem exec_commit_branch {x : Reg → Word} {taken : Bool} {imm : Word} (hs : s.stage = .commit)
    (h : branchShape i x = some (taken, imm)) : exec i s = .next (commitBranch imm s) := by
  cases i <;> cases h <;> exact life_commit hs _ _ _ _ _

theorem exec_commit_syscall (hs : s.stage = .commit) (h : kindOf i = .syscall) :
    exec i s = .next (commitSyscall s) := by
  cases i <;> cases h
  exact life_commit hs _ _ _ _ _

end Sys2Proof.Machine
end

