-- ==== Sys2Proof/Laws/Step.lean ====
section
/-! SUPPORT. What a step is made of, and the induction over its stages packaged once: what exec, the broadcast and the few
moves of the stages keep, every step keeps. -/

namespace Sys2Proof.Machine

/-- A step that answers next ran the first four stages, then fetch, then the clock, as far as the status let it. -/
theorem step_next {s t : State} (h : step s = .next t) :
    s.status = .running ∧ ∃ p, beforeFetch s = .next p ∧
      ((p.status ≠ .running ∧ t = p) ∨
        (p.status = .running ∧ ∃ q, fetchStage p = .next q ∧
          ((q.status ≠ .running ∧ t = q) ∨ (q.status = .running ∧ t = { q with cycle := q.cycle + 1 })))) := by
  unfold step at h
  split at h
  · rename_i hr
    refine ⟨hr, ?_⟩
    obtain ⟨q, hq, hc⟩ := andThen_next h
    obtain ⟨p, hp, hf⟩ := andThen_next hq
    refine ⟨p, hp, ?_⟩
    rcases hf with ⟨h1, h2⟩ | ⟨h1, rfl⟩
    · refine .inr ⟨h1, q, h2, ?_⟩
      rcases hc with ⟨h3, h4⟩ | ⟨h3, rfl⟩
      · refine .inr ⟨h3, ?_⟩
        cases h4
        rfl
      · exact .inl ⟨h3, rfl⟩
    · rcases hc with ⟨h3, _⟩ | ⟨_, rfl⟩
      · exact absurd h3 h1
      · exact .inl ⟨h1, rfl⟩
  · cases h
  · cases h

section

variable {P : State → Prop}

/-- Calling exec at a stage keeps what exec and a change of `stage` keep. -/
theorem execAt_keeps (hexec : ∀ o s t, P s → execOp o s = .next t → P t) (hstage : ∀ s p, P s → P { s with stage := p })
    {p : Stage} {o : Op} {s t : State} (hs : P s) (h : execAt p o s = .next t) : P t := by
  obtain ⟨u, h1, h2⟩ := execAt_next p o s
  rw [h2] at h
  cases h
  exact hstage _ _ (hexec o _ u (hstage _ _ hs) h1)

theorem andThen_keeps {o : Out} {f : State → Out} {t : State} (ho : ∀ s, o = .next s → P s)
    (hf : ∀ s, P s → f s = .next t → P t) (h : andThen o f = .next t) : P t := by
  obtain ⟨s, h1, ⟨_, h2⟩ | ⟨_, rfl⟩⟩ := andThen_next h
  · exact hf s (ho s h1) h2
  · exact ho _ h1

theorem runEntries_keeps (hexec : ∀ o s t, P s → execOp o s = .next t → P t)
    (hstage : ∀ s p, P s → P { s with stage := p }) (stageOf : Tag → Stage) (es : List (Tag × Op)) :
    ∀ s t, P s → runEntries stageOf es s = .next t → P t := by
  induction es with
  | nil =>
    intro s t hs h
    cases h
    exact hs
  | cons e es ih =>
    intro s t hs h
    exact andThen_keeps (fun u hu => execAt_keeps hexec hstage hs hu) (fun u hu hr => ih u t hu hr) h

theorem commitStage_keeps (hexec : ∀ o s t, P s → execOp o s = .next t → P t)
    (hstage : ∀ s p, P s → P { s with stage := p }) {s t : State} (hs : P s) (h : commitStage s = .next t) : P t := by
  unfold commitStage at h
  split at h
  · cases h
    exact hs
  · exact execAt_keeps hexec hstage hs h

theorem issueStage_keeps (hexec : ∀ o s t, P s → execOp o s = .next t → P t)
    (hstage : ∀ s p, P s → P { s with stage := p }) {s t : State} (hs : P s) (h : issueStage s = .next t) : P t := by
  unfold issueStage at h
  split at h
  · cases h
    exact hs
  · exact execAt_keeps hexec hstage hs h

theorem executeStage_keeps (hexec : ∀ o s t, P s → execOp o s = .next t → P t)
    (hstage : ∀ s p, P s → P { s with stage := p }) {s t : State} (hs : P s) (h : executeStage s = .next t) : P t :=
  andThen_keeps (fun _ hu => andThen_keeps (fun _ hv => andThen_keeps
      (fun _ hw => runEntries_keeps hexec hstage _ _ _ _ hs hw)
      (fun _ hw hr => runEntries_keeps hexec hstage _ _ _ _ hw hr) hv)
      (fun _ hv hr => runEntries_keeps hexec hstage _ _ _ _ hv hr) hu)
    (fun _ hu hr => runEntries_keeps hexec hstage _ _ _ _ hu hr) h

theorem fetchHere_keeps (hexec : ∀ o s t, P s → execOp o s = .next t → P t)
    (hstage : ∀ s p, P s → P { s with stage := p }) (hraise : ∀ s f, P s → P (raise f s)) {s t : State} (hs : P s)
    (h : fetchHere s = .next t) : P t := by
  unfold fetchHere at h
  split at h
  · cases h
    exact hraise _ _ hs
  · split at h
    · cases h
      exact hraise _ _ hs
    · exact execAt_keeps hexec hstage hs h

theorem fetchStage_keeps (hexec : ∀ o s t, P s → execOp o s = .next t → P t)
    (hstage : ∀ s p, P s → P { s with stage := p }) (hraise : ∀ s f, P s → P (raise f s))
    (hresume : ∀ s pc, P s → P { s with pc := pc, jalrWait := .none }) {s t : State} (hs : P s)
    (h : fetchStage s = .next t) : P t := by
  unfold fetchStage at h
  split at h
  · exact fetchHere_keeps hexec hstage hraise hs h
  · cases h
    exact hs
  · split at h
    · cases h
      exact hraise _ _ hs
    · split at h
      · cases h
        exact hs
      · exact fetchHere_keeps hexec hstage hraise (hresume _ _ hs) h

/-- Every step keeps what exec, the broadcast and the stages' own moves keep. -/
theorem step_keeps (hexec : ∀ o s t, P s → execOp o s = .next t → P t)
    (hbroadcast : ∀ s t, P s → broadcastStage s = .next t → P t) (hstage : ∀ s p, P s → P { s with stage := p })
    (hraise : ∀ s f, P s → P (raise f s)) (hresume : ∀ s pc, P s → P { s with pc := pc, jalrWait := .none })
    (hcycle : ∀ s, P s → P { s with cycle := s.cycle + 1 }) {s t : State} (hs : P s) (h : step s = .next t) : P t := by
  obtain ⟨_, p, hp, hrest⟩ := step_next h
  have hb : P p :=
    andThen_keeps (fun _ hu => andThen_keeps (fun v hv => andThen_keeps
        (fun _ hw => commitStage_keeps hexec hstage hs hw) (fun w hw hr => hbroadcast w v hw hr) hv)
        (fun _ hv hr => executeStage_keeps hexec hstage hv hr) hu)
      (fun _ hu hr => issueStage_keeps hexec hstage hu hr) hp
  rcases hrest with ⟨_, rfl⟩ | ⟨_, q, hq, hrest⟩
  · exact hb
  · have hf : P q := fetchStage_keeps hexec hstage hraise hresume hb hq
    rcases hrest with ⟨_, rfl⟩ | ⟨_, rfl⟩
    · exact hf
    · exact hcycle _ hf

end

end Sys2Proof.Machine
end

