-- ==== Sys2Proof/Laws/InOrder.lean ====
section
/-! SUPPORT. The small lemmas of sequential execution and of the commits of a run, and a unit's step as the visit of
its entries. -/

namespace Sys2Proof.Machine

/-! ### Registers of the sequential machine -/

@[simp] theorem InOrder.write_pc (q : InOrder) (r : Reg) (v : Word) : (q.write r v).pc = q.pc := by
  unfold InOrder.write
  split <;> rfl

@[simp] theorem InOrder.write_mem (q : InOrder) (r : Reg) (v : Word) : (q.write r v).mem = q.mem := by
  unfold InOrder.write
  split <;> rfl

/-- A write to a sequential machine's register is a write to the core's. -/
theorem InOrder.write_regs (q : InOrder) (r : Reg) (v : Word) (s : State) (h : s.regs = q.regs) :
    (q.write r v).regs = (writeReg r v s).regs := by
  unfold InOrder.write
  rw [writeReg_eq]
  unfold regsWith
  split <;> simp [h]

theorem InOrder.read_eq (q : InOrder) (s : State) (h : s.regs = q.regs) : q.read = readReg s := by
  funext r
  simp [InOrder.read, readReg, h]

/-! ### Runs -/

theorem afterCommit_next {s c : State} (h : commitStage s = .next c) : afterCommit s = c := by
  simp [afterCommit, h]

theorem commitTrace_succ {s t : State} (n : Nat) (h : step s = .next t) :
    commitTrace (n + 1) s = committedBy s ++ commitTrace n t := by
  simp [commitTrace, h]

/-- The commits of `n + m` ticks are those of the first `n` and then those of the next `m`. -/
theorem commitTrace_add (n m : Nat) : ∀ s t : State, core.run n s = .next t →
    commitTrace (n + m) s = commitTrace n s ++ commitTrace m t := by
  induction n with
  | zero =>
    intro s t h
    cases h
    simp [commitTrace]
  | succ n ih =>
    intro s t h
    simp only [Host.Core.run] at h
    rcases hs : step s with u | r | r
    · rw [show core.step s = .next u from hs] at h
      rw [show n + 1 + m = n + m + 1 by omega, commitTrace_succ _ hs, commitTrace_succ _ hs, ih u t h, List.append_assoc]
    · rw [show core.step s = .fault r from hs] at h
      cases h
    · rw [show core.step s = .refused r from hs] at h
      cases h

theorem inOrderRun_succ {c : Config} {q u : InOrder} {op : Op} (n : Nat) (h : inOrderStep c q = .next op u) :
    inOrderRun c (n + 1) q = (inOrderRun c n u).map fun r => (⟨op, q.pc, u.regs, u.mem⟩ :: r.1, r.2) := by
  simp [inOrderRun, h]

/-- Sequential execution of `n + m` instructions is that of `n` and then that of `m`. -/
theorem inOrderRun_add (c : Config) (n m : Nat) : ∀ (q u : InOrder) (es : List Committed),
    inOrderRun c n q = some (es, u) →
    inOrderRun c (n + m) q = (inOrderRun c m u).map fun r => (es ++ r.1, r.2) := by
  induction n with
  | zero =>
    intro q u es h
    cases h
    simp
  | succ n ih =>
    intro q u es h
    rcases hs : inOrderStep c q with ⟨op, v⟩ | code | _
    · rw [inOrderRun_succ _ hs] at h
      obtain ⟨⟨fs, w⟩, h1, h2⟩ := Option.map_eq_some_iff.mp h
      cases h2
      rw [show n + 1 + m = n + m + 1 by omega, inOrderRun_succ _ hs, ih _ _ _ h1]
      simp [Function.comp_def]
    · simp [inOrderRun, hs] at h
    · simp [inOrderRun, hs] at h

/-! ### Units -/

/-- A unit's step visits every entry it is given, in their order. -/
theorem runEntries_visits (stageOf : Tag → Stage) (es : List (Tag × Op)) :
    ∀ s : State, s.status = .running → runEntries stageOf es s = visits stageOf es s := by
  have fold : ∀ (es : List (Tag × Op)) (o : Out),
      es.foldl (fun o w => andThen o fun u => rest (execOp w.2 { u with stage := stageOf w.1 })) o =
        andThen o (runEntries stageOf es) := by
    intro es
    induction es with
    | nil =>
      intro o
      cases o <;> simp [andThen, runEntries]
    | cons e es ih =>
      intro o
      rw [List.foldl_cons, ih]
      rcases o with u | r | r
      · by_cases hu : u.status = .running
        · simp [andThen, runEntries, execAt, hu]
        · simp [andThen, hu]
      · rfl
      · rfl
  intro s hs
  rw [visits, fold]
  simp [andThen, hs]

end Sys2Proof.Machine
end

