-- ==== Sys2Proof/Tests/Slice0.lean ====
section
/-! SUPPORT. The model's own tests: ill-formed operands are refused, a word of every row decodes as the spec lays it out, the
worked examples of the spec come out, and every statement's premises are met somewhere. -/

namespace Sys2Proof.Tests

open Sys2Proof Sys2Proof.Machine

/-! ### Well-formedness: one ill-formed term for each check (30_encoding.md R95) -/

theorem test_imm12_I_too_large : (Instr.addi 1 2 0x800#32).wf = false := by decide
theorem test_imm12_S_too_small : (Instr.sw 1 2 0xfffff7ff#32).wf = false := by decide
theorem test_immB_odd : (Instr.beq 1 2 3#32).wf = false := by decide
theorem test_immB_too_large : (Instr.bgeu 1 2 0x1000#32).wf = false := by decide
theorem test_immU_low_bits : (Instr.lui 1 0x12345001#32).wf = false := by decide
theorem test_immJ_odd : (Instr.jal 1 9#32).wf = false := by decide
theorem test_immJ_too_large : (Instr.jal 1 0x100000#32).wf = false := by decide
theorem test_boundary_immediates_fit :
    (Instr.addi 1 2 0xfffff800#32).wf && (Instr.sw 1 2 0x7ff#32).wf && (Instr.beq 1 2 0xfffff000#32).wf &&
      (Instr.lui 1 0xfffff000#32).wf && (Instr.jal 1 0xffffe#32).wf = true := by decide

/-! ### One word of every row, its fields written out from spec/opcode_table.json and 30_encoding.md R92 to R95: bits 31..25,
24..20, 19..15, 14..12, 11..7, 6..0 -/

theorem test_decode_add :
    decodeTableWord 32 0b0000000_10011_01111_000_01000_0110011 = some (.add 8 15 19) := by decide
theorem test_decode_sub :
    decodeTableWord 32 0b0100000_00001_11010_000_01111_0110011 = some (.sub 15 26 1) := by decide
theorem test_decode_sll :
    decodeTableWord 32 0b0000000_01110_00110_001_10110_0110011 = some (.sll 22 6 14) := by decide
theorem test_decode_slt :
    decodeTableWord 32 0b0000000_11011_10001_010_11101_0110011 = some (.slt 29 17 27) := by decide
theorem test_decode_sltu :
    decodeTableWord 32 0b0000000_01001_11100_011_00101_0110011 = some (.sltu 5 28 9) := by decide
theorem test_decode_xor :
    decodeTableWord 32 0b0000000_10110_01000_100_01100_0110011 = some (.xor 12 8 22) := by decide
theorem test_decode_srl :
    decodeTableWord 32 0b0000000_00100_10011_101_10011_0110011 = some (.srl 19 19 4) := by decide
theorem test_decode_sra :
    decodeTableWord 32 0b0100000_10001_11110_101_11010_0110011 = some (.sra 26 30 17) := by decide
theorem test_decode_or :
    decodeTableWord 32 0b0000000_11110_01010_110_00010_0110011 = some (.or 2 10 30) := by decide
theorem test_decode_and :
    decodeTableWord 32 0b0000000_01100_10101_111_01001_0110011 = some (.and 9 21 12) := by decide
theorem test_decode_addi :
    decodeTableWord 32 0b1000001_01101_00001_000_10000_0010011 = some (.addi 16 1 0xfffff82d#32) := by decide
theorem test_decode_slti :
    decodeTableWord 32 0b0111111_10001_01100_010_10111_0010011 = some (.slti 23 12 0x7f1#32) := by decide
theorem test_decode_sltiu :
    decodeTableWord 32 0b1000001_10101_10111_011_11110_0010011 = some (.sltiu 30 23 0xfffff835#32) := by decide
theorem test_decode_xori :
    decodeTableWord 32 0b0111111_10001_00011_100_00110_0010011 = some (.xori 6 3 0x7f1#32) := by decide
theorem test_decode_ori :
    decodeTableWord 32 0b1000001_11101_01110_110_01101_0010011 = some (.ori 13 14 0xfffff83d#32) := by decide
theorem test_decode_andi :
    decodeTableWord 32 0b0111111_10001_11001_111_10100_0010011 = some (.andi 20 25 0x7f1#32) := by decide
theorem test_decode_slli :
    decodeTableWord 32 0b0000000_01010_00101_001_11011_0010011 = some (.slli 27 5 10#5) := by decide
theorem test_decode_srli :
    decodeTableWord 32 0b0000000_10111_10000_101_00011_0010011 = some (.srli 3 16 23#5) := by decide
theorem test_decode_srai :
    decodeTableWord 32 0b0100000_00101_11011_101_01010_0010011 = some (.srai 10 27 5#5) := by decide
theorem test_decode_lui :
    decodeTableWord 32 0b1000000_10010_01001_000_10001_0110111 = some (.lui 17 0x81248000#32) := by decide
theorem test_decode_auipc :
    decodeTableWord 32 0b1000000_10010_01001_001_11000_0010111 = some (.auipc 24 0x81249000#32) := by decide
theorem test_decode_jal :
    decodeTableWord 32 0b1011001_01111_01010_011_11111_1101111 = some (.jal 31 0xfff53b2e#32) := by decide
theorem test_decode_jalr :
    decodeTableWord 32 0b1000010_11101_01001_000_00111_1100111 = some (.jalr 7 9 0xfffff85d#32) := by decide
theorem test_decode_beq :
    decodeTableWord 32 0b0101001_01000_10100_000_11001_1100011 = some (.beq 20 8 0xd38#32) := by decide
theorem test_decode_bne :
    decodeTableWord 32 0b1101010_10101_11111_001_11000_1100011 = some (.bne 31 21 0xfffff558#32) := by decide
theorem test_decode_blt :
    decodeTableWord 32 0b0101011_00011_01011_100_11001_1100011 = some (.blt 11 3 0xd78#32) := by decide
theorem test_decode_bge :
    decodeTableWord 32 0b1101100_10000_10110_101_11000_1100011 = some (.bge 22 16 0xfffff598#32) := by decide
theorem test_decode_bltu :
    decodeTableWord 32 0b0101001_11101_00010_110_11001_1100011 = some (.bltu 2 29 0xd38#32) := by decide
theorem test_decode_bgeu :
    decodeTableWord 32 0b1101010_01011_01101_111_11000_1100011 = some (.bgeu 13 11 0xfffff558#32) := by decide
theorem test_decode_ecall :
    decodeTableWord 32 0b0000000_00000_00000_000_00000_1110011 = some .ecall := by decide
theorem test_decode_ebreak :
    decodeTableWord 32 0b0000000_00001_00000_000_00000_1110011 = some .ebreak := by decide
theorem test_decode_csrrw :
    decodeTableWord 32 0b1100000_00001_01111_001_01000_1110011 = some (.csrrw 8 15 0xc01#12) := by decide
theorem test_decode_csrrs :
    decodeTableWord 32 0b1100000_00001_11010_010_01111_1110011 = some (.csrrs 15 26 0xc01#12) := by decide
theorem test_decode_csrrc :
    decodeTableWord 32 0b1100000_00001_00110_011_10110_1110011 = some (.csrrc 22 6 0xc01#12) := by decide
theorem test_decode_csrrwi :
    decodeTableWord 32 0b1100000_00001_10001_101_11101_1110011 = some (.csrrwi 29 17 0xc01#12) := by decide
theorem test_decode_csrrsi :
    decodeTableWord 32 0b1100000_00001_11100_110_00101_1110011 = some (.csrrsi 5 28 0xc01#12) := by decide
theorem test_decode_csrrci :
    decodeTableWord 32 0b1100000_00001_01000_111_01100_1110011 = some (.csrrci 12 8 0xc01#12) := by decide
theorem test_decode_fence :
    decodeTableWord 32 0b1000001_10101_10011_000_10011_0001111 = some (.fence 19 19 8#4 3#4 5#4) := by decide
theorem test_decode_fenceI :
    decodeTableWord 32 0b1000000_00001_11110_001_11010_0001111 = some (.fenceI 26 30 0x801#12) := by decide
theorem test_decode_mul :
    decodeTableWord 32 0b0000001_11110_01010_000_00010_0110011 = some (.mul 2 10 30) := by decide
theorem test_decode_mulh :
    decodeTableWord 32 0b0000001_01100_10101_001_01001_0110011 = some (.mulh 9 21 12) := by decide
theorem test_decode_mulhsu :
    decodeTableWord 32 0b0000001_11001_00001_010_10000_0110011 = some (.mulhsu 16 1 25) := by decide
theorem test_decode_mulhu :
    decodeTableWord 32 0b0000001_00111_01100_011_10111_0110011 = some (.mulhu 23 12 7) := by decide
theorem test_decode_div :
    decodeTableWord 32 0b0000001_10100_10111_100_11110_0110011 = some (.div 30 23 20) := by decide
theorem test_decode_divu :
    decodeTableWord 32 0b0000001_00010_00011_101_00110_0110011 = some (.divu 6 3 2) := by decide
theorem test_decode_rem :
    decodeTableWord 32 0b0000001_01111_01110_110_01101_0110011 = some (.rem 13 14 15) := by decide
theorem test_decode_remu :
    decodeTableWord 32 0b0000001_11100_11001_111_10100_0110011 = some (.remu 20 25 28) := by decide
theorem test_decode_lb :
    decodeTableWord 32 0b0111111_10001_00101_000_11011_0000011 = some (.lb 27 5 0x7f1#32) := by decide
theorem test_decode_lh :
    decodeTableWord 32 0b1000110_00101_10000_001_00011_0000011 = some (.lh 3 16 0xfffff8c5#32) := by decide
theorem test_decode_lw :
    decodeTableWord 32 0b0111111_10001_11011_010_01010_0000011 = some (.lw 10 27 0x7f1#32) := by decide
theorem test_decode_lbu :
    decodeTableWord 32 0b1000110_01101_00111_100_10001_0000011 = some (.lbu 17 7 0xfffff8cd#32) := by decide
theorem test_decode_lhu :
    decodeTableWord 32 0b0111111_10001_10010_101_11000_0000011 = some (.lhu 24 18 0x7f1#32) := by decide
theorem test_decode_sb :
    decodeTableWord 32 0b1010100_01101_11101_000_10111_0100011 = some (.sb 29 13 0xfffffa97#32) := by decide
theorem test_decode_sh :
    decodeTableWord 32 0b1010010_11010_01001_001_10111_0100011 = some (.sh 9 26 0xfffffa57#32) := by decide
theorem test_decode_sw :
    decodeTableWord 32 0b1010011_01000_10100_010_10111_0100011 = some (.sw 20 8 0xfffffa77#32) := by decide
theorem test_decode_lrW :
    decodeTableWord 32 0b0001001_00000_11111_010_10101_0101111 = some (.lrW 21 31 0#1 1#1) := by decide
theorem test_decode_scW :
    decodeTableWord 32 0b0001110_00011_01011_010_11100_0101111 = some (.scW 28 11 3 1#1 0#1) := by decide
theorem test_decode_amoswapW :
    decodeTableWord 32 0b0000101_10000_10110_010_00100_0101111 = some (.amoswapW 4 22 16 0#1 1#1) := by decide
theorem test_decode_amoaddW :
    decodeTableWord 32 0b0000010_11101_00010_010_01011_0101111 = some (.amoaddW 11 2 29 1#1 0#1) := by decide
theorem test_decode_amoxorW :
    decodeTableWord 32 0b0010001_01011_01101_010_10010_0101111 = some (.amoxorW 18 13 11 0#1 1#1) := by decide
theorem test_decode_amoandW :
    decodeTableWord 32 0b0110010_11000_11000_010_11001_0101111 = some (.amoandW 25 24 24 1#1 0#1) := by decide
theorem test_decode_amoorW :
    decodeTableWord 32 0b0100001_00110_00100_010_00001_0101111 = some (.amoorW 1 4 6 0#1 1#1) := by decide
theorem test_decode_amominW :
    decodeTableWord 32 0b1000010_10011_01111_010_01000_0101111 = some (.amominW 8 15 19 1#1 0#1) := by decide
theorem test_decode_amomaxW :
    decodeTableWord 32 0b1010001_00001_11010_010_01111_0101111 = some (.amomaxW 15 26 1 0#1 1#1) := by decide
theorem test_decode_amominuW :
    decodeTableWord 32 0b1100010_01110_00110_010_10110_0101111 = some (.amominuW 22 6 14 1#1 0#1) := by decide
theorem test_decode_amomaxuW :
    decodeTableWord 32 0b1110001_11011_10001_010_11101_0101111 = some (.amomaxuW 29 17 27 0#1 1#1) := by decide
theorem test_decode_flw :
    decodeTableWord 32 0b1000000_01100_11100_010_00101_0000111 = some (.flw 5 28 0x80c#12) := by decide
theorem test_decode_fsw :
    decodeTableWord 32 0b1000001_10110_01000_010_00110_0100111 = some (.fsw 8 22 0x826#12) := by decide
theorem test_decode_fmaddS :
    decodeTableWord 32 0b0011100_00100_10011_101_10011_1000011 = some (.fmaddS 19 19 4 7 5#3) := by decide
theorem test_decode_fmsubS :
    decodeTableWord 32 0b0110000_10001_11110_101_11010_1000111 = some (.fmsubS 26 30 17 12 5#3) := by decide
theorem test_decode_fnmsubS :
    decodeTableWord 32 0b1000100_11110_01010_101_00010_1001011 = some (.fnmsubS 2 10 30 17 5#3) := by decide
theorem test_decode_fnmaddS :
    decodeTableWord 32 0b1011000_01100_10101_101_01001_1001111 = some (.fnmaddS 9 21 12 22 5#3) := by decide
theorem test_decode_faddS :
    decodeTableWord 32 0b0000000_11001_00001_110_10000_1010011 = some (.faddS 16 1 25 6#3) := by decide
theorem test_decode_fsubS :
    decodeTableWord 32 0b0000100_00111_01100_110_10111_1010011 = some (.fsubS 23 12 7 6#3) := by decide
theorem test_decode_fmulS :
    decodeTableWord 32 0b0001000_10100_10111_110_11110_1010011 = some (.fmulS 30 23 20 6#3) := by decide
theorem test_decode_fdivS :
    decodeTableWord 32 0b0001100_00010_00011_110_00110_1010011 = some (.fdivS 6 3 2 6#3) := by decide
theorem test_decode_fsqrtS :
    decodeTableWord 32 0b0101100_00000_01110_110_01101_1010011 = some (.fsqrtS 13 14 6#3) := by decide
theorem test_decode_fsgnjS :
    decodeTableWord 32 0b0010000_11100_11001_000_10100_1010011 = some (.fsgnjS 20 25 28) := by decide
theorem test_decode_fsgnjnS :
    decodeTableWord 32 0b0010000_01010_00101_001_11011_1010011 = some (.fsgnjnS 27 5 10) := by decide
theorem test_decode_fsgnjxS :
    decodeTableWord 32 0b0010000_10111_10000_010_00011_1010011 = some (.fsgnjxS 3 16 23) := by decide
theorem test_decode_fminS :
    decodeTableWord 32 0b0010100_00101_11011_000_01010_1010011 = some (.fminS 10 27 5) := by decide
theorem test_decode_fmaxS :
    decodeTableWord 32 0b0010100_10010_00111_001_10001_1010011 = some (.fmaxS 17 7 18) := by decide
theorem test_decode_fcvtWS :
    decodeTableWord 32 0b1100000_00000_10010_110_11000_1010011 = some (.fcvtWS 24 18 6#3) := by decide
theorem test_decode_fcvtWuS :
    decodeTableWord 32 0b1100000_00001_11101_110_11111_1010011 = some (.fcvtWuS 31 29 6#3) := by decide
theorem test_decode_fmvXW :
    decodeTableWord 32 0b1110000_00000_01001_000_00111_1010011 = some (.fmvXW 7 9) := by decide
theorem test_decode_feqS :
    decodeTableWord 32 0b1010000_01000_10100_010_01110_1010011 = some (.feqS 14 20 8) := by decide
theorem test_decode_fltS :
    decodeTableWord 32 0b1010000_10101_11111_001_10101_1010011 = some (.fltS 21 31 21) := by decide
theorem test_decode_fleS :
    decodeTableWord 32 0b1010000_00011_01011_000_11100_1010011 = some (.fleS 28 11 3) := by decide
theorem test_decode_fclassS :
    decodeTableWord 32 0b1110000_00000_10110_001_00100_1010011 = some (.fclassS 4 22) := by decide
theorem test_decode_fcvtSW :
    decodeTableWord 32 0b1101000_00000_00010_110_01011_1010011 = some (.fcvtSW 11 2 6#3) := by decide
theorem test_decode_fcvtSWu :
    decodeTableWord 32 0b1101000_00001_01101_110_10010_1010011 = some (.fcvtSWu 18 13 6#3) := by decide
theorem test_decode_fmvWX :
    decodeTableWord 32 0b1111000_00000_11000_000_11001_1010011 = some (.fmvWX 25 24) := by decide

/-! ### Words that no row matches (30_encoding.md R91, R93, R94, R120, R121, R123) -/

theorem test_reject_sixteen_bits : decodeTableWord 32 0x00310032 = none := by decide
theorem test_reject_zero : decodeTableWord 32 0 = none := by decide
theorem test_reject_custom0 : decodeTableWord 32 0x0000000b = none := by decide
theorem test_reject_slli_bit25 : decodeTableWord 32 0b0000001_00001_00010_001_00011_0010011 = none := by decide
theorem test_reject_lr_rs2 : decodeTableWord 32 0b0001000_00001_00010_010_00011_0101111 = none := by decide
theorem test_reject_ecall_rd : decodeTableWord 32 0b0000000_00000_00000_000_00001_1110011 = none := by decide
theorem test_reject_mret : decodeTableWord 32 0x30200073 = none := by decide
theorem test_reject_add_funct7 : decodeTableWord 32 0b1000000_00001_00010_000_00011_0110011 = none := by decide

/-! ### The worked examples of 41_alu.md, 42_muldiv.md and 43_load_store_amo.md, one tick of one unit each -/

/-- A state whose only entry is a ready rs_alu entry with tag 1. -/
def aluState (i : Instr) (j k pc : Word) : State :=
  { State.reset with stage := .execute 1, rsAlu := [⟨⟨.ins i, pc, false⟩, j, 0, k, 0, 1, 0, 0, 0⟩] }

/-- Progress and result after the ALU step. -/
def aluAfter (i : Instr) (j k pc : Word) : Option (Nat × Word) :=
  match exec i (aluState i j k pc) with
  | .next s => s.rsAlu.head?.map fun e => (e.progress, e.result)
  | _ => none

theorem test_add_wraps : aluAfter (.add 1 2 3) 0x7fffffff 1 0 = some (1, 0x80000000) := by decide
theorem test_sub_wraps : aluAfter (.sub 1 2 3) 0 1 0 = some (1, 0xffffffff) := by decide
theorem test_sll_31 : aluAfter (.sll 1 2 3) 1 31 0 = some (1, 0x80000000) := by decide
theorem test_sll_33 : aluAfter (.sll 1 2 3) 3 33 0 = some (1, 6) := by decide
theorem test_slt_minus_one : aluAfter (.slt 1 2 3) 0xffffffff 1 0 = some (1, 1) := by decide
theorem test_sltu_max : aluAfter (.sltu 1 2 3) 0xffffffff 1 0 = some (1, 0) := by decide
theorem test_xor : aluAfter (.xor 1 2 3) 0xff00ff00 0x0f0f0f0f 0 = some (1, 0xf00ff00f) := by decide
theorem test_srl_31 : aluAfter (.srl 1 2 3) 0x80000000 31 0 = some (1, 1) := by decide
theorem test_sra_sign : aluAfter (.sra 1 2 3) 0xf0000000 4 0 = some (1, 0xff000000) := by decide
theorem test_or : aluAfter (.or 1 2 3) 0xf0f0 0x0f0f 0 = some (1, 0xffff) := by decide
theorem test_and : aluAfter (.and 1 2 3) 0xffff 0x00ff00ff 0 = some (1, 0xff) := by decide
theorem test_addi_minus_one : aluAfter (.addi 1 2 0xffffffff) 5 0xffffffff 0 = some (1, 4) := by decide
theorem test_slti : aluAfter (.slti 1 2 0xffffffff) 0xfffffffe 0xffffffff 0 = some (1, 1) := by decide
theorem test_sltiu : aluAfter (.sltiu 1 2 1) 0 1 0 = some (1, 1) := by decide
theorem test_xori : aluAfter (.xori 1 2 0xffffffff) 0xf 0xffffffff 0 = some (1, 0xfffffff0) := by decide
theorem test_ori : aluAfter (.ori 1 2 1) 0x100 1 0 = some (1, 0x101) := by decide
theorem test_andi : aluAfter (.andi 1 2 0xff) 0x12345678 0xff 0 = some (1, 0x78) := by decide
theorem test_slli : aluAfter (.slli 1 2 4) 1 4 0 = some (1, 0x10) := by decide
theorem test_srli : aluAfter (.srli 1 2 4) 0x80000000 4 0 = some (1, 0x08000000) := by decide
theorem test_srai : aluAfter (.srai 1 2 4) 0x80000000 4 0 = some (1, 0xf8000000) := by decide
theorem test_lui : aluAfter (.lui 5 0x12345000) 0 0x12345000 0 = some (1, 0x12345000) := by decide
theorem test_auipc : aluAfter (.auipc 5 0x1000) 0x10000 0x1000 0x10000 = some (1, 0x11000) := by decide
theorem test_jal_link : aluAfter (.jal 1 0x20) 0x100 0x20 0x100 = some (1, 0x104) := by decide
theorem test_jalr_link : aluAfter (.jalr 5 1 4) 0x201 4 0x300 = some (1, 0x304) := by decide
theorem test_beq_equal : aluAfter (.beq 1 2 8) 7 7 0 = some (1, 1) := by decide
theorem test_bne_equal : aluAfter (.bne 1 2 8) 3 3 0 = some (1, 0) := by decide
theorem test_blt_signed : aluAfter (.blt 1 2 8) 0xffffffff 0 0 = some (1, 1) := by decide
theorem test_bge_signed : aluAfter (.bge 1 2 8) 0 0xffffffff 0 = some (1, 1) := by decide
theorem test_bltu_unsigned : aluAfter (.bltu 1 2 8) 0xffffffff 0 0 = some (1, 0) := by decide
theorem test_bgeu_unsigned : aluAfter (.bgeu 1 2 8) 1 0xffffffff 0 = some (1, 0) := by decide
theorem test_ecall_next_pc : aluAfter .ecall 0 0 0x1000 = some (1, 0x1004) := by decide

/-- Progress and result after the last MULDIV tick of an entry with tag 1; none where the tick faults. -/
def mdAfter (lat : Nat) (i : Instr) (j k : Word) : Option (Nat × Word) :=
  match exec i { State.reset with
    stage := .execute 1, rsMd := [⟨⟨.ins i, 0, false⟩, j, 0, k, 0, 1, 0, lat - 1, 0⟩] } with
  | .next s => if s.status = .running then s.rsMd.head?.map fun e => (e.progress, e.result) else none
  | _ => none

theorem test_mul_negative : mdAfter 3 (.mul 1 2 3) 7 0xfffffffa = some (3, 0xffffffd6) := by decide
theorem test_mulh_min_squared : mdAfter 3 (.mulh 1 2 3) 0x80000000 0x80000000 = some (3, 0x40000000) := by decide
theorem test_mulh_minus_one : mdAfter 3 (.mulh 1 2 3) 0xffffffff 0xffffffff = some (3, 0) := by decide
theorem test_mulhsu : mdAfter 3 (.mulhsu 1 2 3) 0xffffffff 0xffffffff = some (3, 0xffffffff) := by decide
theorem test_mulhu : mdAfter 3 (.mulhu 1 2 3) 0xffffffff 0xffffffff = some (3, 0xfffffffe) := by decide
theorem test_div_truncates : mdAfter 10 (.div 1 2 3) 0xfffffff9 2 = some (10, 0xfffffffd) := by decide
theorem test_div_by_zero_faults : mdAfter 10 (.div 1 2 3) 5 0 = none := by decide
theorem test_divu : mdAfter 10 (.divu 1 2 3) 0xfffffff9 2 = some (10, 0x7ffffffc) := by decide
theorem test_rem_sign_of_dividend : mdAfter 10 (.rem 1 2 3) 0xfffffff9 2 = some (10, 0xffffffff) := by decide
theorem test_rem_overflow_faults : mdAfter 10 (.rem 1 2 3) 0x80000000 0xffffffff = none := by decide
theorem test_remu : mdAfter 10 (.remu 1 2 3) 0xfffffff9 2 = some (10, 1) := by decide

/-- Memory with four bytes at 0x2000, the lowest address first. -/
def fourBytes (b0 b1 b2 b3 : Byte) : Memory :=
  writeByte (writeByte (writeByte (writeByte [] 0x2000 b0) 0x2001 b1) 0x2002 b2) 0x2003 b3

/-- The result after the last load-buffer tick of a cleared load with tag 1 from 0x2000. -/
def loadAfter (i : Instr) (m : Memory) : Option Word :=
  match exec i { State.reset with
    stage := .load 1, mem := m, lb := [⟨1, ⟨.ins i, 0, false⟩, 0x2000, 0, true, none, 1, 0⟩] } with
  | .next s => if s.status = .running then s.lb.head?.map (·.result) else none
  | _ => none

theorem test_lb_sign : loadAfter (.lb 1 2 0) (fourBytes 0x80 0 0 0) = some 0xffffff80 := by decide
theorem test_lh_sign : loadAfter (.lh 1 2 0) (fourBytes 0x34 0x82 0 0) = some 0xffff8234 := by decide
theorem test_lw_little_endian : loadAfter (.lw 1 2 0) (fourBytes 0x44 0x33 0x22 0x11) = some 0x11223344 := by decide
theorem test_lbu : loadAfter (.lbu 1 2 0) (fourBytes 0x80 0 0 0) = some 0x80 := by decide
theorem test_lhu : loadAfter (.lhu 1 2 0) (fourBytes 0x34 0x82 0 0) = some 0x8234 := by decide

/-- A reorder-buffer entry with tag 1 that has everything it can have before commit. -/
def readyEntry (i : Instr) (dest : Reg) (addr result wb : Word) : RobEntry :=
  ⟨1, ⟨.ins i, 0x100, true⟩, dest, addr, true, true, result, wb, true, 0, 1⟩

/-- The word at 0x2000 and one byte after the commit of a store with this write-back value. -/
def storeAfter (i : Instr) (wb : Word) : Option Word :=
  match exec i { State.reset with stage := .commit, rob := [readyEntry i 0 0x2000 0 wb] } with
  | .next s => some (memRead s.mem 0x2000 4)
  | _ => none

theorem test_sb_low_byte : storeAfter (.sb 6 5 0) 0x12345678 = some 0x78 := by decide
theorem test_sh_low_half : storeAfter (.sh 6 5 0) 0x12345678 = some 0x5678 := by decide
theorem test_sw_word : storeAfter (.sw 6 5 0) 0x11223344 = some 0x11223344 := by decide

/-- Result and write-back value after the last load-buffer tick of an AMO with tag 1 on a word of memory. -/
def amoAfter (i : Instr) (old src : Word) : Option (Word × Word) :=
  match exec i { State.reset with
    stage := .load 1, mem := memWrite [] 0x2000 4 old, rob := [readyEntry i 7 0x2000 0 0]
    lb := [⟨1, ⟨.ins i, 0, false⟩, 0x2000, src, true, none, 1, 0⟩] } with
  | .next s => s.rob.head?.map fun h => (h.result, h.wb)
  | _ => none

theorem test_sc_stores_source : amoAfter (.scW 7 6 5 0 0) 77 9 = some (0, 9) := by decide
theorem test_amoswap : amoAfter (.amoswapW 7 6 5 0 0) 3 8 = some (3, 8) := by decide
theorem test_amoadd : amoAfter (.amoaddW 7 6 5 0 0) 10 5 = some (10, 15) := by decide
theorem test_amoxor : amoAfter (.amoxorW 7 6 5 0 0) 0xf0 0xff = some (0xf0, 0x0f) := by decide
theorem test_amoand : amoAfter (.amoandW 7 6 5 0 0) 0xf0 0x3c = some (0xf0, 0x30) := by decide
theorem test_amoor : amoAfter (.amoorW 7 6 5 0 0) 0xf0 0x0f = some (0xf0, 0xff) := by decide
theorem test_amomin : amoAfter (.amominW 7 6 5 0 0) 1 0xffffffff = some (1, 0xffffffff) := by decide
theorem test_amomax : amoAfter (.amomaxW 7 6 5 0 0) 1 0xffffffff = some (1, 1) := by decide
theorem test_amominu : amoAfter (.amominuW 7 6 5 0 0) 1 0xffffffff = some (1, 1) := by decide
theorem test_amomaxu : amoAfter (.amomaxuW 7 6 5 0 0) 1 0xffffffff = some (1, 0xffffffff) := by decide

/-- LR.W in address generation: result 0 without a read (43_load_store_amo.md R291). -/
theorem test_lr_result_zero :
    (match exec (.lrW 7 6 0 0) { State.reset with
        stage := .execute 1, mem := memWrite [] 0x2000 4 5, rob := [readyEntry (.lrW 7 6 0 0) 7 0 0 0]
        rsAgu := [⟨⟨.ins (.lrW 7 6 0 0), 0, false⟩, 0x2000, 0, 0, 0, 1, 0, 0, 99⟩] } with
      | .next s => s.rsAgu.head?.map fun e => (e.progress, e.result)
      | _ => none) = some (1, 0) := by decide

/-- 45_cdb.md R362's worked example: entry 9 is harvested, entry 11 and the store of entry 10 hear its message. -/
theorem test_broadcast_example :
    (match broadcastStage { State.reset with
        rsAlu := [⟨⟨.nop, 0, false⟩, 0, 0, 0, 0, 9, 0, 1, 12⟩, ⟨⟨.nop, 0, false⟩, 0, 9, 0, 0, 11, 0, 0, 0⟩]
        rob := [⟨9, ⟨.nop, 0, false⟩, 3, 0, false, false, 0, 0, false, 0, 0⟩,
          ⟨10, ⟨.ins (.sw 1 3 0), 0, false⟩, 0, 0, false, false, 0, 0, false, 9, 0⟩,
          ⟨11, ⟨.nop, 0, false⟩, 0, 0, false, false, 0, 0, false, 0, 0⟩] } with
      | .next s => some (s.rsAlu.map (fun e => (e.dest, e.vj, e.qj)),
          s.rob.map fun h => (h.complete, h.result, h.wb, h.valueReady))
      | _ => none) =
    some ([(11, 12, 0)], [(true, 12, 0, false), (false, 0, 12, true), (false, 0, 0, false)]) := by decide

/-- 40_cycle_issue_rename.md R148's worked example: x1 pending on tag 7, x2 = 5, next_tag = 9, `add x3, x1, x2`. -/
def issueExample : State :=
  { State.reset with
    stage := .issue, iq := [⟨.ins (.add 3 1 2), 0, false⟩], nextTag := 9, regs := State.reset.regs.set 2 5
    rst := State.reset.rst.set 1 ⟨true, 7⟩
    rob := [⟨7, ⟨.nop, 0, false⟩, 1, 0, false, false, 0, 0, false, 0, 0⟩] }

theorem test_issue_example :
    (match exec (.add 3 1 2) issueExample with
      | .next s => s.rsAlu == [⟨⟨.ins (.add 3 1 2), 0, false⟩, 0, 7, 5, 0, 9, 0, 0, 0⟩] &&
          s.rob.map (·.tag) == [7, 9] && s.rob.map (·.dest) == [1, 3] && s.rst[3] == ⟨true, 9⟩ && s.nextTag == 10
      | _ => false) = true := by decide

/-- 46_commit.md R387's worked example: `bne x1, x1, +16` at 0x100, predicted taken, was not taken. -/
theorem test_misprediction_example :
    (match exec (.bne 1 1 16) { State.reset with
        stage := .commit, rob := [readyEntry (.bne 1 1 16) 0 0 0 0, readyEntry (.add 1 2 3) 1 0 0 0]
        iq := [⟨.nop, 0, false⟩] } with
      | .next s => some (s.pc, s.rob, s.iq)
      | _ => none) = some (0x104, [], []) := by decide

/-- 44_branch_fetch.md R332: the counters saturate at 3 and 0. -/
theorem test_counter_saturates : bump 3 true = 3 ∧ bump 0 false = 0 ∧ bump 2 true = 3 ∧ bump 1 false = 0 := by decide

/-! ### Witnesses: for every statement with premises, states and operands that meet them all, a clause at a time -/

/-- The start of a run with `addi x1, x0, 1` at the entry. -/
def started : State := placeWord State.reset 0x00100093#32

/-- The start of a run whose first word is the zero word. -/
def blank : State := State.reset

def one : Decoded := ⟨.ins (.addi 1 0 1), 0x1000, false⟩

/-- A reorder-buffer entry as issue makes it. -/
def freshEntry (t : Tag) (i : Instr) (dest : Reg) : RobEntry :=
  ⟨t, ⟨.ins i, 0x100, false⟩, dest, 0, false, false, 0, 0, false, 0, 0⟩

/-- A ready reservation-station entry. -/
def freshRs (t : Tag) (i : Instr) (j k a : Word) : RsEntry := ⟨⟨.ins i, 0x100, false⟩, j, 0, k, 0, t, a, 0, 0⟩

/-- A load-buffer entry as address generation makes it, for 0x2000. -/
def freshLb (t : Tag) (i : Instr) : LbEntry := ⟨t, ⟨.ins i, 0x104, false⟩, 0x2000, 9, false, none, 0, 0⟩

/-- An instruction alone in the core, with x1 = 7 and x2 = 3. -/
def aloneWith (i : Instr) : State :=
  { State.reset with iq := [⟨.ins i, 0x1000, false⟩], regs := (State.reset.regs.set 1 7).set 2 3 }

theorem witness_DecodeEncode : (Instr.addi 31 0 0xfffff800#32).wf = true ∧ (Instr.jal 0 0xfff00000#32).wf = true := by
  decide

theorem witness_EncodeDecode : decodeWord 0x80000f93#32 = .ok (.addi 31 0 0xfffff800#32) := by rfl

theorem witness_TableMatchesDecoder : (⟨"ADDI", 0x00000013#32, 0x0000707f#32⟩ : OpcodeRow) ∈ opcodeTable ∧
    0x80000f93#32 &&& 0x0000707f#32 = 0x00000013#32 := by decide

theorem witness_StepRunsDecoded : Quiet started ∧ started.iq = [] ∧ Allowed started.cfg started.pc 4 ∧
    decodeWord (memRead started.mem started.pc 4) = .ok (.addi 1 0 1) ∧ beforeFetch started = .next started ∧
    started.status = .running ∧ started.jalrWait = .none := by
  refine ⟨by decide, rfl, ⟨by decide, fun k hk => ?_⟩, rfl, rfl, rfl, rfl⟩
  exact (mappedByte_iff _ _).1 (by
    rcases k with _ | _ | _ | _ | k <;> first | decide | omega)

/-- Every stage runs through. -/
theorem witness_TickRunsFiveStages : commitStage started = .next started ∧ broadcastStage started = .next started ∧
    executeStage started = .next started ∧ issueStage started = .next started ∧
    ∃ e, fetchStage started = .next e ∧ e.status = .running := ⟨rfl, rfl, rfl, rfl, _, rfl, by decide⟩

/-- Commit stops the tick: an exit. -/
def exiting : State := { State.reset with
  cfg := { Config.atReset with dispatcher := .sample }, regs := State.reset.regs.set 17 93
  rob := [{ freshEntry 1 .ecall 10 with valueReady := true }], nextTag := 2 }

theorem witness_TickRunsFiveStages_commit : exiting.status = .running ∧
    ∃ a, commitStage exiting = .next a ∧ a.status ≠ .running := ⟨rfl, _, rfl, by decide⟩

/-- Broadcast stops the tick: a result without an owner. -/
def orphaned : State := { State.reset with rsAlu := [{ freshRs 1 (.addi 1 0 1) 0 0 0 with progress := 1 }] }

theorem witness_TickRunsFiveStages_broadcast : commitStage orphaned = .next orphaned ∧
    ∃ b, broadcastStage orphaned = .next b ∧ b.status ≠ .running := ⟨rfl, _, rfl, by decide⟩

/-- Execute stops the tick: a division by zero in its last tick. -/
def dividing : State := { State.reset with
  rsMd := [{ freshRs 1 (.divu 1 2 3) 5 0 0 with progress := 9 }], rob := [freshEntry 1 (.divu 1 2 3) 1], nextTag := 2 }

theorem witness_TickRunsFiveStages_execute : commitStage dividing = .next dividing ∧
    broadcastStage dividing = .next dividing ∧ ∃ c, executeStage dividing = .next c ∧ c.status ≠ .running :=
  ⟨rfl, rfl, _, rfl, by decide⟩

/-- Two ALU entries and a load, all ready: one execute stage works on each, and the load buffer on what address generation has
just put there (R135). -/
def busy : State := { State.reset with
  rsAlu := [freshRs 1 (.add 3 1 2) 7 8 0, freshRs 2 (.sub 4 1 2) 7 8 0], rsAgu := [freshRs 3 (.lw 5 1 0) 0x2000 0 0]
  rob := [freshEntry 1 (.add 3 1 2) 3, freshEntry 2 (.sub 4 1 2) 4, freshEntry 3 (.lw 5 1 0) 5], nextTag := 4 }

theorem test_execute_every_entry : ∃ t, executeStage busy = .next t ∧ t.rsAlu.map (·.result) = [15, 0xffffffff] ∧
    t.rsAgu = [] ∧ t.lb.map (fun l => (l.owner, l.progress)) = [(3, 1)] := ⟨_, rfl, by decide⟩

/-- Issue stops the tick: a claimed register without a producer. -/
def unowned : State := { State.reset with iq := [⟨.ins (.add 3 1 2), 0, false⟩], rst := State.reset.rst.set 1 ⟨true, 7⟩ }

theorem witness_TickRunsFiveStages_issue : commitStage unowned = .next unowned ∧ broadcastStage unowned = .next unowned ∧
    executeStage unowned = .next unowned ∧ ∃ d, issueStage unowned = .next d ∧ d.status ≠ .running :=
  ⟨rfl, rfl, rfl, _, rfl, by decide⟩

/-- Fetch stops the tick: the zero word. And the heads that commit and issue call exec for. -/
theorem witness_TickRunsFiveStages_fetch : issueStage blank = .next blank ∧
    (∃ e, fetchStage blank = .next e ∧ e.status ≠ .running) ∧
    dividing.rob = [freshEntry 1 (.divu 1 2 3) 1] ∧ unowned.iq = [⟨.ins (.add 3 1 2), 0, false⟩] :=
  ⟨rfl, ⟨_, rfl, by decide⟩, rfl, rfl⟩

theorem witness_CycleCountsCompletedTicks : started.status = .running ∧ blank.status = .running ∧ started.stage = .fetch := by
  decide

theorem witness_StoppedRunTakesNoTick : ({ blank with status := .exited 0 } : State).status ≠ .running ∧
    ({ blank with status := .faulted (.staleTag 1) } : State).status ≠ .running := by decide

theorem witness_OnlyCommitWritesArchitecture : started.status = .running ∧ commitStage started = .next started ∧
    ∃ t, step started = .next t := ⟨rfl, rfl, _, rfl⟩

theorem witness_OnlyTwoEventsSquash : commitStage dividing = .next dividing ∧
    ¬ ∃ h tail, dividing.rob = h :: tail ∧
      ((opKind h.ins.op = .branch ∧ h.complete = true ∧ ¬ (h.result = 1 ↔ h.ins.pred = true)) ∨
        (isSyscall h.ins.op = true ∧ h.valueReady = true)) := by
  refine ⟨rfl, ?_⟩
  rintro ⟨h, tail, e, h1⟩
  obtain ⟨rfl, rfl⟩ := List.cons.inj e
  revert h1
  decide

theorem witness_StepKeepsMemoryCanonical : Memory.wf started.mem ∧ started.mem ≠ [] ∧ ∃ t, step started = .next t :=
  ⟨by decide, by decide, _, rfl⟩

theorem witness_StepKeepsZeroRegister : ZeroRegister started ∧ ∃ t, step started = .next t := ⟨by decide, _, rfl⟩

/-- One instruction about to issue behind one in flight. -/
def issuing : State := { dividing with iq := [one], rsMd := [freshRs 1 (.divu 1 2 3) 5 1 0] }

theorem witness_StepKeepsTagOrder : TagsInOrder issuing ∧ ∃ t, step issuing = .next t ∧ t.rob.length = 2 :=
  ⟨by decide, _, rfl, by decide⟩

theorem witness_TagsAreNeverReused : ∃ t, step issuing = .next t ∧ t.nextTag = issuing.nextTag + 1 ∧
    ∃ h ∈ t.rob, h.tag = issuing.nextTag := ⟨_, rfl, by decide, by decide⟩

theorem witness_LaunchMeetsInvariants : Memory.wf started.mem ∧
    State.reset = State.launch Config.atReset 0x1000#32 (Vector.replicate 32 0) [] := ⟨by decide, rfl⟩

theorem witness_RunInvariants : Config.atReset.wf ∧
    ∃ s, Reaches Config.atReset 0x1000#32 (Vector.replicate 32 0) started.mem 1 s ∧ s.status = .running :=
  ⟨by decide, _, rfl, by decide⟩

/-- A program that adds and then stays where it is: ADDI x1, x0, 1 and JAL x0, 0 (70_reset_and_hazards.md R443). -/
def staying : Memory := memWrite (memWrite [] 0x1000 4 0x00100093) 0x1004 4 0x0000006f

/-- The parameters at reset, with the example dispatcher, whose answers do not look at the clock. -/
def clockless : Config := { Config.atReset with dispatcher := .sample }

/-- Where a run of that program stands after `n` ticks. -/
def stayed (c : Config) (n : Nat) : State :=
  match core.run n (State.launch c 0x1000#32 (Vector.replicate 32 0) staying) with
  | .next s => s
  | .fault _ => State.reset
  | .refused _ => State.reset

/-- The third tick leaves a result to harvest, and the run goes on behind its harvest. -/
theorem witness_TagsHaveOneUnit : Config.atReset.wf ∧
    Reaches Config.atReset 0x1000#32 (Vector.replicate 32 0) staying 3 (stayed Config.atReset 3) ∧
    (stayed Config.atReset 3).status = .running ∧ harvestSet (stayed Config.atReset 3) = [⟨.alu, 1, 1⟩] ∧
    core.run (0 + 1) (stayed Config.atReset 3) = .next (stayed Config.atReset 4) ∧
    (stayed Config.atReset 4).status = .running := ⟨by decide, rfl, by decide, by decide, rfl, by decide⟩

theorem witness_StaleTagUnreachable : Config.atReset.wf ∧
    ∃ s, Reaches Config.atReset 0x1000#32 (Vector.replicate 32 0) started.mem 1 s := ⟨by decide, _, rfl⟩

theorem witness_ReadAfterWrite_at : Memory.wf [(0, 1#8), (0xffffffff, 2#8)] ∧ 4 ≤ 4 := by decide

/-- A write that wraps around the top of the space leaves the byte after it alone. -/
theorem witness_ReadAfterWrite_elsewhere : ∀ k < 4, 0x00000002#32 ≠ 0xfffffffe#32 + BitVec.ofNat 32 k := by decide

/-- Only the first four bytes are mapped. -/
def narrow : Config := { Config.atReset with mapped := [⟨0, 3⟩] }

theorem witness_AccessChecks : IsMisaligned narrow 1 4 ∧ (¬ IsMisaligned narrow 4 4 ∧ ¬ InRange narrow 4 4) ∧
    Allowed narrow 0 4 := by decide

/-- A fetch that each of the three fetch faults stops: at 2, at 4 with four bytes mapped, and at the zero word. -/
def fetchingAt (c : Config) (pc : Word) : State := { State.reset with cfg := c, pc := pc }

theorem witness_FetchFaultsInOrder :
    (beforeFetch (fetchingAt narrow 2) = .next (fetchingAt narrow 2) ∧ IsMisaligned narrow 2 4) ∧
    (beforeFetch (fetchingAt narrow 4) = .next (fetchingAt narrow 4) ∧ ¬ IsMisaligned narrow 4 4 ∧ ¬ InRange narrow 4 4) ∧
    (beforeFetch (fetchingAt narrow 0) = .next (fetchingAt narrow 0) ∧ Allowed narrow 0 4 ∧
      decodeWord (memRead (fetchingAt narrow 0).mem 0 4) = .error .notThirtyTwoBits) ∧
    (fetchingAt narrow 0).status = .running ∧ (fetchingAt narrow 0).jalrWait = .none ∧
    (fetchingAt narrow 0).stage = .fetch :=
  ⟨⟨rfl, by decide⟩, ⟨rfl, by decide⟩, ⟨rfl, by decide, rfl⟩, rfl, rfl, rfl⟩

/-- The same for a refused row: EBREAK. -/
theorem witness_FetchFaultsInOrder_refused : decodeWord 0x00100073#32 = .ok .ebreak ∧ kindOf .ebreak = .refused :=
  ⟨rfl, rfl⟩

theorem witness_FetchSetsPc : blank.stage = .fetch ∧ kindOf (.fence 0 0 0 0 0) ≠ .branch ∧
    isJal (.fence 0 0 0 0 0) = false ∧ isJalr (.fence 0 0 0 0 0) = false ∧ kindOf (.fence 0 0 0 0 0) ≠ .suppressed ∧
    kindOf (.fence 0 0 0 0 0) ≠ .refused := by decide

theorem witness_FetchPredictsBranches : blank.stage = .fetch ∧ blank.cfg.predictor = .static true ∧
    branchShape (.bgeu 1 2 0xfffffffc) (readReg blank) = some (true, 0xfffffffc) := by decide

/-- A JALR that waits for its base, and one whose base is there. -/
def jalrWaiting (q : Tag) : State := { State.reset with
  jalrWait := .waiting 4, rsAlu := [⟨⟨.ins (.jalr 5 1 4), 0x300, false⟩, 0x201, q, 4, 0, 4, 0, 0, 0⟩] }

theorem witness_JalrResumes :
    ({ State.reset with jalrWait := .unissued } : State).jalrWait = .unissued ∧
    (jalrWaiting 3).jalrWait = .waiting 4 ∧
    FirstWhere (fun x => x.dest = 4) (jalrWaiting 3).rsAlu [] ((jalrWaiting 3).rsAlu.head (by decide)) [] ∧
    ((jalrWaiting 3).rsAlu.head (by decide)).qj ≠ 0 ∧ ((jalrWaiting 0).rsAlu.head (by decide)).qj = 0 ∧
    (∀ x ∈ ({ State.reset with jalrWait := .waiting 4 } : State).rsAlu, x.dest ≠ 4) := by decide

theorem witness_RefusedRowsFault : kindOf .ebreak = .refused ∧ kindOf (.csrrci 1 2 0xc01) = .refused := by decide

/-- A NOP record at the head of iq, at issue. -/
def issuingNop : State := { State.reset with stage := .issue, iq := [⟨.nop, 0, false⟩] }

theorem witness_SuppressedBecomesNop : kindOf (.fsw 1 2 0) = .suppressed ∧ blank.stage = .fetch ∧
    issuingNop.stage = .issue ∧ issuingNop.iq = [⟨.nop, 0, false⟩] := by decide

theorem witness_PredictorCounts : blank.cfg.predictor = .static true ∧
    ({ blank with cfg := { Config.atReset with predictor := .twoBit 3 } } : State).cfg.predictor = .twoBit 3 := by decide

/-- x1 is free, x2 pending on a finished producer, x3 on an unfinished one, x4 on none. -/
def renamed : State := { State.reset with
  rst := ((State.reset.rst.set 2 ⟨true, 1⟩).set 3 ⟨true, 2⟩).set 4 ⟨true, 3⟩
  rob := [{ freshEntry 1 (.addi 2 0 1) 2 with complete := true }, freshEntry 2 (.addi 3 0 1) 3], nextTag := 4 }

theorem witness_RenameReadMapsRegisters : (rstAt renamed 1).busy = false ∧
    ((rstAt renamed 2).busy = true ∧
      Owner renamed (rstAt renamed 2).tag [] { freshEntry 1 (.addi 2 0 1) 2 with complete := true }
        [freshEntry 2 (.addi 3 0 1) 3]) ∧
    ((rstAt renamed 3).busy = true ∧
      Owner renamed (rstAt renamed 3).tag [{ freshEntry 1 (.addi 2 0 1) 2 with complete := true }]
        (freshEntry 2 (.addi 3 0 1) 3) []) ∧
    ((rstAt renamed 4).busy = true ∧ ¬ TagPresent renamed (rstAt renamed 4).tag) := by decide

/-- An instruction about to issue. -/
def issuingIn (i : Instr) : State := { renamed with stage := .issue, iq := [⟨.ins i, 0, false⟩], jalrWait := .unissued }

/-- A store whose data is pending, with its base ready. -/
theorem witness_IssueFillsSlots : (issuingIn (.sw 1 3 8)).status = .running ∧ (issuingIn (.sw 1 3 8)).stage = .issue ∧
    (issuingIn (.sw 1 3 8)).iq = [⟨.ins (.sw 1 3 8), 0, false⟩] ∧
    issueTable (.sw 1 3 8) = some ⟨.agu, .reg 1, .const 0, 8, 0, some 3⟩ ∧
    readOperand (issuingIn (.sw 1 3 8)) 0 (.reg 1) = .slot ⟨0, 0⟩ ∧
    readOperand (issuingIn (.sw 1 3 8)) 0 (.const 0) = .slot ⟨0, 0⟩ ∧
    renameRead (issuingIn (.sw 1 3 8)) 3 = .slot ⟨0, 2⟩ := by decide

/-- A JALR that fetch waits for, its base pending. -/
theorem witness_IssueFillsSlots_jalr : isJalr (.jalr 5 3 4) = true ∧ (issuingIn (.jalr 5 3 4)).jalrWait = .unissued ∧
    (issuingIn (.jalr 5 3 4)).status = .running ∧ (issuingIn (.jalr 5 3 4)).stage = .issue ∧
    issueTable (.jalr 5 3 4) = some ⟨.alu, .reg 3, .const 4, 0, 5, none⟩ ∧
    readOperand (issuingIn (.jalr 5 3 4)) 0 (.reg 3) = .slot ⟨0, 2⟩ ∧
    readOperand (issuingIn (.jalr 5 3 4)) 0 (.const 4) = .slot ⟨4, 0⟩ := by decide

theorem witness_AluResults : (aluState (.add 1 2 3) 7 8 0).stage = .execute 1 ∧
    FirstWhere (fun x => Eligible 1 x ∧ x.progress = 0) (aluState (.add 1 2 3) 7 8 0).rsAlu []
      ⟨⟨.ins (.add 1 2 3), 0, false⟩, 7, 0, 8, 0, 1, 0, 0, 0⟩ [] ∧
    aluTable (.add 1 2 3) 7 8 0 = some 15 := by decide

/-- A state in which the MULDIV unit looks at one entry with tag 1, behind one with another tag. -/
def mdState (c : Config) (e : RsEntry) : State :=
  { State.reset with stage := .execute 1, cfg := c, rsMd := [freshRs 2 (.mul 1 2 3) 0 0 0, e] }

/-- An rs_md entry with tag 1 and this much progress. -/
def mdEntry (i : Instr) (j k : Word) (progress : Nat) : RsEntry := { freshRs 1 i j k 0 with progress := progress }

/-- The last tick of a multiply (progress 2 of 3) and the first. -/
theorem witness_MultiplyProgress : ∀ p ∈ [0, 2],
    (mdState Config.atReset (mdEntry (.mul 1 2 3) 7 6 p)).stage = .execute 1 ∧
    FirstWhere (fun x => x.dest = 1) (mdState Config.atReset (mdEntry (.mul 1 2 3) 7 6 p)).rsMd
      [freshRs 2 (.mul 1 2 3) 0 0 0] (mdEntry (.mul 1 2 3) 7 6 p) [] ∧
    (mdEntry (.mul 1 2 3) 7 6 p).qj = 0 ∧ (mdEntry (.mul 1 2 3) 7 6 p).qk = 0 ∧
    (mdEntry (.mul 1 2 3) 7 6 p).progress < Config.atReset.mulLat ∧
    mulTable (.mul 1 2 3) 7 6 = some 42 := by decide

/-- One tick short of the latency (progress 8 of 10), and the last tick; the operands are next to the overflow corner. -/
theorem witness_DivisionProgress : divOpOf (.rem 1 2 3) = some .rem ∧
    (∀ p ∈ [8, 9], (mdState Config.atReset (mdEntry (.rem 1 2 3) 0x80000000 0xfffffffe p)).stage = .execute 1 ∧
      FirstWhere (fun x => x.dest = 1) (mdState Config.atReset (mdEntry (.rem 1 2 3) 0x80000000 0xfffffffe p)).rsMd
        [freshRs 2 (.mul 1 2 3) 0 0 0] (mdEntry (.rem 1 2 3) 0x80000000 0xfffffffe p) [] ∧
      (mdEntry (.rem 1 2 3) 0x80000000 0xfffffffe p).qj = 0 ∧ (mdEntry (.rem 1 2 3) 0x80000000 0xfffffffe p).qk = 0) ∧
    8 + 1 < Config.atReset.divLat ∧ 9 + 1 = Config.atReset.divLat ∧
    ¬ IsDivCorner .rem 0x80000000 0xfffffffe := by decide

/-- Each setting of DIV_CORNER, with the overflow corner. -/
theorem witness_DivisionCorners : ∀ d ∈ [DivCorner.fault, .host, .riscv],
    (mdState { Config.atReset with divCorner := d } (mdEntry (.rem 1 2 3) 0x80000000 0xffffffff 9)).stage = .execute 1 ∧
    FirstWhere (fun x => x.dest = 1)
      (mdState { Config.atReset with divCorner := d } (mdEntry (.rem 1 2 3) 0x80000000 0xffffffff 9)).rsMd
      [freshRs 2 (.mul 1 2 3) 0 0 0] (mdEntry (.rem 1 2 3) 0x80000000 0xffffffff 9) [] ∧
    divOpOf (.rem 1 2 3) = some .rem ∧ (mdEntry (.rem 1 2 3) 0x80000000 0xffffffff 9).progress + 1 = 10 ∧
    ({ Config.atReset with divCorner := d } : Config).divLat = 10 ∧
    ({ Config.atReset with divCorner := d } : Config).divCorner = d ∧
    IsDivCorner .rem 0x80000000 0xffffffff ∧ IsDivCorner .divu 5 0 := by decide

/-- One entry pending, one of another tag. -/
theorem witness_PendingEntriesWait :
    (mdState Config.atReset { mdEntry (.mul 1 2 3) 7 6 0 with qk := 7 }).stage = .execute 1 ∧
    kindOf (.mul 1 2 3) ≠ .refused ∧
    ∀ e, InPool (mdState Config.atReset { mdEntry (.mul 1 2 3) 7 6 0 with qk := 7 }) e → ¬ Eligible 1 e := by
  refine ⟨rfl, by decide, ?_⟩
  rintro e (h | h | h)
  · cases h
  · revert e
    decide
  · cases h

/-- A state in which address generation looks at one entry with tag 1, whose owner is present, beside an older load. -/
def aguState (i : Instr) : State :=
  { State.reset with
    stage := .execute 1, rsAgu := [freshRs 1 i 0x2000 9 4], rob := [freshEntry 1 i 7], lb := [freshLb 0 (.lw 7 6 0)] }

theorem witness_AddressGeneration : ∀ i ∈ [Instr.lhu 1 2 4, .sh 1 2 4, .scW 1 2 3 0 0, .lrW 1 2 0 0],
    (kindOf i = .load ∨ kindOf i = .store .half ∨ kindOf i = .amo ∨ kindOf i = .loadReserved) ∧
    (aguState i).stage = .execute 1 ∧
    FirstWhere (fun x => Eligible 1 x ∧ x.progress = 0) (aguState i).rsAgu [] (freshRs 1 i 0x2000 9 4) [] ∧
    Owner (aguState i) 1 [] (freshEntry 1 i 7) [] := by decide

/-- A load or AMO with tag 3 behind the store `h` with tag 1 and a store with tag 2 to another address. -/
def behindStore (c : Config) (h : RobEntry) (load : Instr) (l : LbEntry) : State :=
  { State.reset with
    stage := .load 3, cfg := c, rob := [h, passedStore, freshEntry 3 load 7], lb := [l], nextTag := 4 }
where
  passedStore : RobEntry := { readyEntry (.sw 1 2 0) 0 0x2001 0 88 with tag := 2 }

/-- The load-buffer entry of that load. -/
abbrev theLoad (load : Instr) : LbEntry := freshLb 3 load

/-- No address yet; and the load's address with a value that is not ready. For a load and for an AMO. -/
theorem witness_ScanStalls :
    ∀ h ∈ [freshEntry 1 (.sw 1 2 0) 0, { freshEntry 1 (.sw 1 2 0) 0 with addrReady := true, addr := 0x2000 }],
    ∀ i ∈ [Instr.lw 7 6 0, .amoaddW 7 6 5 0 0], (kindOf i = .load ∨ kindOf i = .amo) ∧
      (behindStore Config.atReset h i (theLoad i)).stage = .load 3 ∧
      FirstWhere (Working (behindStore Config.atReset h i (theLoad i)) 3) [theLoad i] [] (theLoad i) [] ∧
      (theLoad i).cleared = false ∧
      Owner (behindStore Config.atReset h i (theLoad i)) 3 ([] ++ h :: [behindStore.passedStore]) (freshEntry 3 i 7) [] ∧
      (∀ x ∈ [behindStore.passedStore], Passed (theLoad i).addr x) ∧ storeWidth h.ins.op ≠ none ∧
      (h.addrReady = false ∨ (h.addr = (theLoad i).addr ∧ h.valueReady = false)) := by decide

/-- A store of a word at the load's address with its value; and one of a byte under FWD_WIDER = raw. -/
theorem witness_ScanForwards : loadShape (.lw 7 6 0) = some (.word, true, 7, 6, 0) ∧
    (∀ p ∈ [(Instr.sw 1 2 0, Width.word, FwdWider.fault), (.sb 1 2 0, .byte, .raw)],
      (behindStore { Config.atReset with fwdWider := p.2.2 } (readyEntry p.1 0 0x2000 0 77) (.lw 7 6 0)
        (theLoad (.lw 7 6 0))).stage = .load 3 ∧
      FirstWhere (fun x => x.owner = 3) [theLoad (.lw 7 6 0)] [] (theLoad (.lw 7 6 0)) [] ∧
      (theLoad (.lw 7 6 0)).progress < Config.atReset.cacheLat ∧ (theLoad (.lw 7 6 0)).cleared = false ∧
      Owner (behindStore { Config.atReset with fwdWider := p.2.2 } (readyEntry p.1 0 0x2000 0 77) (.lw 7 6 0)
        (theLoad (.lw 7 6 0))) 3 ([] ++ readyEntry p.1 0 0x2000 0 77 :: [behindStore.passedStore])
        (freshEntry 3 (.lw 7 6 0) 7) [] ∧
      (∀ x ∈ [behindStore.passedStore], Passed 0x2000 x) ∧ storeWidth (readyEntry p.1 0 0x2000 0 77).ins.op = some p.2.1 ∧
      (readyEntry p.1 0 0x2000 0 77).addrReady = true ∧ (readyEntry p.1 0 0x2000 0 77).addr = 0x2000 ∧
      (readyEntry p.1 0 0x2000 0 77).valueReady = true ∧
      (widthBytes .word ≤ widthBytes p.2.1 ∨ p.2.2 = .raw)) := by decide

/-- Two stores to other addresses in front of the load. -/
theorem witness_ScanFindsNoStore :
    (behindStore Config.atReset (readyEntry (.sb 1 2 0) 0 0x2002 0 77) (.lw 7 6 0) (theLoad (.lw 7 6 0))).stage = .load 3 ∧
    kindOf (.lw 7 6 0) = .load ∧ FirstWhere (fun x => x.owner = 3) [theLoad (.lw 7 6 0)] [] (theLoad (.lw 7 6 0)) [] ∧
    (theLoad (.lw 7 6 0)).progress < Config.atReset.cacheLat ∧ (theLoad (.lw 7 6 0)).cleared = false ∧
    Owner (behindStore Config.atReset (readyEntry (.sb 1 2 0) 0 0x2002 0 77) (.lw 7 6 0) (theLoad (.lw 7 6 0))) 3
      [readyEntry (.sb 1 2 0) 0 0x2002 0 77, behindStore.passedStore] (freshEntry 3 (.lw 7 6 0) 7) [] ∧
    (∀ x ∈ [readyEntry (.sb 1 2 0) 0 0x2002 0 77, behindStore.passedStore], Passed 0x2000 x) := by decide

/-- A byte at the address a half word is loaded from. -/
theorem witness_NarrowStoreFaults : loadShape (.lh 7 6 0) = some (.half, true, 7, 6, 0) ∧
    (behindStore Config.atReset (readyEntry (.sb 1 2 0) 0 0x2000 0 77) (.lh 7 6 0) (theLoad (.lh 7 6 0))).stage = .load 3 ∧
    FirstWhere (Working (behindStore Config.atReset (readyEntry (.sb 1 2 0) 0 0x2000 0 77) (.lh 7 6 0)
      (theLoad (.lh 7 6 0))) 3) [theLoad (.lh 7 6 0)] [] (theLoad (.lh 7 6 0)) [] ∧
    (theLoad (.lh 7 6 0)).cleared = false ∧
    Owner (behindStore Config.atReset (readyEntry (.sb 1 2 0) 0 0x2000 0 77) (.lh 7 6 0) (theLoad (.lh 7 6 0))) 3
      ([] ++ readyEntry (.sb 1 2 0) 0 0x2000 0 77 :: [behindStore.passedStore]) (freshEntry 3 (.lh 7 6 0) 7) [] ∧
    (∀ x ∈ [behindStore.passedStore], Passed 0x2000 x) ∧
    storeWidth (readyEntry (.sb 1 2 0) 0 0x2000 0 77).ins.op = some .byte ∧
    (readyEntry (.sb 1 2 0) 0 0x2000 0 77).addrReady = true ∧ (readyEntry (.sb 1 2 0) 0 0x2000 0 77).addr = 0x2000 ∧
    (readyEntry (.sb 1 2 0) 0 0x2000 0 77).valueReady = true ∧ widthBytes .byte < widthBytes .half ∧
    Config.atReset.fwdWider = .fault := by decide

/-- A cleared load-buffer entry with tag 3, this much progress and this forwarded value, for the address `a`. -/
def clearedAt (i : Instr) (a : Word) (progress : Nat) (fwd : Option Word) : LbEntry :=
  { freshLb 3 i with addr := a, cleared := true, progress := progress, fwd := fwd }

/-- The tick before the last of a cleared load, and its last tick, forwarded and read from the last mapped byte. -/
theorem witness_LoadReads : loadShape (.lb 7 6 0) = some (.byte, true, 7, 6, 0) ∧
    (∀ l ∈ [clearedAt (.lb 7 6 0) 3 0 none, clearedAt (.lb 7 6 0) 3 1 (some 5), clearedAt (.lb 7 6 0) 3 1 none],
      (behindStore narrow (freshEntry 1 (.sw 1 2 0) 0) (.lb 7 6 0) l).stage = .load 3 ∧
      FirstWhere (fun x => x.owner = 3) (behindStore narrow (freshEntry 1 (.sw 1 2 0) 0) (.lb 7 6 0) l).lb [] l [] ∧
      l.cleared = true ∧ (l.progress + 1 < narrow.cacheLat ∨ (l.progress + 1 = narrow.cacheLat ∧
        (l.fwd = some 5 ∨ (l.fwd = none ∧ Allowed narrow l.addr (widthBytes .byte)))))) := by decide

/-- The same three ticks of an AMO, on the last mapped word. -/
theorem witness_AtomicReads : amoTable (.amomaxuW 7 6 5 1 1) 0xffffffff 9 = some 0xffffffff ∧
    amoTable (.amomaxuW 7 6 5 1 1) 0 9 = some 9 ∧
    (∀ l ∈ [clearedAt (.amomaxuW 7 6 5 1 1) 0 0 none, clearedAt (.amomaxuW 7 6 5 1 1) 0 1 (some 0xffffffff),
        clearedAt (.amomaxuW 7 6 5 1 1) 0 1 none],
      (behindStore narrow (freshEntry 1 (.sw 1 2 0) 0) (.amomaxuW 7 6 5 1 1) l).stage = .load 3 ∧ l.src = 9 ∧
      FirstWhere (fun x => x.owner = 3)
        (behindStore narrow (freshEntry 1 (.sw 1 2 0) 0) (.amomaxuW 7 6 5 1 1) l).lb [] l [] ∧ l.cleared = true ∧
      Owner (behindStore narrow (freshEntry 1 (.sw 1 2 0) 0) (.amomaxuW 7 6 5 1 1) l) 3
        [freshEntry 1 (.sw 1 2 0) 0, behindStore.passedStore] (freshEntry 3 (.amomaxuW 7 6 5 1 1) 7) [] ∧
      (l.progress + 1 < narrow.cacheLat ∨ (l.progress + 1 = narrow.cacheLat ∧
        (l.fwd = some 0xffffffff ∨ (l.fwd = none ∧ Allowed narrow l.addr 4 ∧
          0 = memRead (behindStore narrow (freshEntry 1 (.sw 1 2 0) 0) (.amomaxuW 7 6 5 1 1) l).mem l.addr 4))))) := by
  decide

/-- A half word at 3 is misaligned, and at 4 it is not mapped. -/
theorem witness_ReadFaults : loadShape (.lhu 7 6 0) = some (.half, false, 7, 6, 0) ∧
    (∀ a ∈ [3#32, 4#32],
      (behindStore narrow (freshEntry 1 (.sw 1 2 0) 0) (.lhu 7 6 0) (clearedAt (.lhu 7 6 0) a 1 none)).stage = .load 3 ∧
      FirstWhere (fun x => x.owner = 3) [clearedAt (.lhu 7 6 0) a 1 none] [] (clearedAt (.lhu 7 6 0) a 1 none) [] ∧
      (clearedAt (.lhu 7 6 0) a 1 none).cleared = true ∧ (clearedAt (.lhu 7 6 0) a 1 none).fwd = none ∧
      (clearedAt (.lhu 7 6 0) a 1 none).progress + 1 = narrow.cacheLat) ∧
    IsMisaligned narrow 3 2 ∧ ¬ IsMisaligned narrow 4 2 ∧ ¬ InRange narrow 4 2 := by
  simp only [List.forall_mem_cons]
  refine ⟨by decide, ⟨?_, ?_, by simp⟩, by decide⟩ <;> decide

/-- A harvest of one result that two entries wait for. -/
def harvesting : State := { State.reset with
  rsAlu := [{ freshRs 1 (.add 3 1 2) 7 8 0 with progress := 1, result := 15 },
    { freshRs 2 (.add 4 3 3) 0 0 0 with qj := 1, qk := 1 }]
  rob := [freshEntry 1 (.add 3 1 2) 3, freshEntry 2 (.add 4 3 3) 4, { freshEntry 3 (.sw 1 3 0) 0 with storeQ := 1 }]
  nextTag := 4 }

theorem witness_BroadcastInFull : harvesting.status = .running ∧ TagsInOrder harvesting ∧
    harvestSet harvesting = [⟨.alu, 1, 15⟩] ∧ (∀ x ∈ harvestSet harvesting, TagPresent harvesting x.tag) ∧
    OneUnitPerTag harvesting := by decide

/-- A state in which `h` is about to commit, with one entry behind it. -/
def committing (c : Config) (h : RobEntry) : State :=
  { State.reset with stage := .commit, cfg := c, rob := [h, freshEntry 2 (.add 3 1 2) 3], nextTag := 3 }

theorem witness_CommitOther : ∀ h ∈ [freshEntry 1 (.lw 7 6 0) 7, readyEntry (.lw 7 6 0) 7 0 5 0],
    (committing Config.atReset h).stage = .commit ∧
    (committing Config.atReset h).rob = h :: [freshEntry 2 (.add 3 1 2) 3] ∧ kindOf (.lw 7 6 0) = .load ∧
    (h.complete = false ∨ h.complete = true) := by decide

/-- The stall, the latency tick, a misaligned write, one that is not mapped, and a write of the last mapped word. -/
theorem witness_CommitStore : storeWidth (.ins (.sw 1 2 0)) = some .word ∧
    (∀ h ∈ [freshEntry 1 (.sw 1 2 0) 0, { readyEntry (.sw 1 2 0) 0 0 0 9 with progress := 0 },
        readyEntry (.sw 1 2 0) 0 2 0 9, readyEntry (.sw 1 2 0) 0 4 0 9, readyEntry (.sw 1 2 0) 0 0 0 9],
      (committing narrow h).stage = .commit ∧ (committing narrow h).rob = h :: [freshEntry 2 (.add 3 1 2) 3] ∧
      (h.addrReady = false ∨ (h.addrReady = true ∧ h.valueReady = true ∧ (h.progress = 0 ∨
        (h.progress ≠ 0 ∧ (IsMisaligned narrow h.addr 4 ∨ (¬ IsMisaligned narrow h.addr 4 ∧ ¬ InRange narrow h.addr 4) ∨
          Allowed narrow h.addr 4)))))) ∧
    IsMisaligned narrow 2 4 ∧ (¬ IsMisaligned narrow 4 4 ∧ ¬ InRange narrow 4 4) ∧ Allowed narrow 0 4 := by decide

/-- A branch that is not complete, one predicted right, one predicted wrong. -/
theorem witness_CommitBranch : branchShape (.bne 1 2 8) (readReg blank) = some (false, 8) ∧
    (∀ h ∈ [freshEntry 1 (.bne 1 2 8) 0, readyEntry (.bne 1 2 8) 0 0 1 0, readyEntry (.bne 1 2 8) 0 0 0 0],
      (committing Config.atReset h).stage = .commit ∧
      (committing Config.atReset h).rob = h :: [freshEntry 2 (.add 3 1 2) 3]) ∧
    (freshEntry 1 (.bne 1 2 8) 0).complete = false ∧
    (readyEntry (.bne 1 2 8) 0 0 1 0).ins.pred = decide ((readyEntry (.bne 1 2 8) 0 0 1 0).result = 1) ∧
    (readyEntry (.bne 1 2 8) 0 0 0 0).ins.pred ≠ decide ((readyEntry (.bne 1 2 8) 0 0 0 0).result = 1) := by decide

/-- An ECALL about to commit under the example dispatcher, with this call number and x10 = 4. -/
def calling (n : Word) : State :=
  { committing exiting.cfg (readyEntry .ecall 10 0 0x104 0) with regs := (State.reset.regs.set 17 n).set 10 4 }

/-- The example dispatcher's three answers, and the stall. A memory fault of its own is an answer that only the free
dispatcher can give; the statement's clause about it holds for every dispatcher. -/
theorem witness_CommitSyscall :
    (∀ n ∈ [1#32, 93, 5], (calling n).stage = .commit ∧
      (calling n).rob = readyEntry .ecall 10 0 0x104 0 :: [freshEntry 2 (.add 3 1 2) 3]) ∧
    (readyEntry .ecall 10 0 0x104 0).valueReady = true ∧ (freshEntry 1 .ecall 10).valueReady = false ∧
    dispatch (calling 1) = .resume 8 [] ∧ dispatch (calling 93) = .exit 4 ∧
    dispatch (calling 5) = .unimplemented 5 := by
  simp only [List.forall_mem_cons]
  refine ⟨⟨?_, ?_, ?_, by simp⟩, by decide⟩ <;> decide

theorem witness_AluAlone : Alone (aloneWith (.sub 5 1 2)) ⟨.ins (.sub 5 1 2), 0x1000, false⟩ ∧
    inOrderOp (.ins (.sub 5 1 2)) (readReg (aloneWith (.sub 5 1 2))) 0x1000 = some (5, 4) := by decide

theorem witness_MulAlone : Alone (aloneWith (.mulhu 5 1 2)) ⟨.ins (.mulhu 5 1 2), 0x1000, false⟩ ∧
    (aloneWith (.mulhu 5 1 2)).cfg.wf ∧ issueTable (.mulhu 5 1 2) = some ⟨.md, .reg 1, .reg 2, 0, 5, none⟩ ∧
    mulTable (.mulhu 5 1 2) 7 3 = some 0 := by decide

/-- A division that is no corner case, and one that is, with the divisor x0. -/
theorem witness_DivAlone : Alone (aloneWith (.rem 5 1 2)) ⟨.ins (.rem 5 1 2), 0x1000, false⟩ ∧
    (aloneWith (.rem 5 1 2)).cfg.wf ∧ divOpOf (.rem 5 1 2) = some .rem ∧
    issueTable (.rem 5 1 2) = some ⟨.md, .reg 1, .reg 2, 0, 5, none⟩ ∧ ¬ IsDivCorner .rem 7 3 ∧
    IsDivCorner .rem 7 (readReg (aloneWith (.rem 5 1 0)) 0) ∧ Config.atReset.divCorner = .fault := by decide

/-- The state of an instruction alone in the core with four bytes of the space mapped. -/
def aloneNarrow (i : Instr) : State := { aloneWith i with cfg := narrow, regs := State.reset.regs }

theorem witness_LoadAlone : Alone (aloneNarrow (.lbu 5 1 3)) ⟨.ins (.lbu 5 1 3), 0x1000, false⟩ ∧ narrow.wf ∧
    loadShape (.lbu 5 1 3) = some (.byte, false, 5, 1, 3) ∧
    Allowed narrow (readReg (aloneNarrow (.lbu 5 1 3)) 1 + 3) (widthBytes .byte) := by decide

theorem witness_StoreAlone : Alone (aloneNarrow (.sh 1 2 2)) ⟨.ins (.sh 1 2 2), 0x1000, false⟩ ∧
    storeShape (.sh 1 2 2) = some (.half, 1, 2, 2) ∧
    Allowed narrow (readReg (aloneNarrow (.sh 1 2 2)) 1 + 2) (widthBytes .half) := by decide

theorem witness_AtomicAlone : Alone (aloneNarrow (.scW 5 1 2 0 0)) ⟨.ins (.scW 5 1 2 0 0), 0x1000, false⟩ ∧ narrow.wf ∧
    issueTable (.scW 5 1 2 0 0) = some ⟨.agu, .reg 1, .reg 2, 0, 5, none⟩ ∧
    amoTable (.scW 5 1 2 0 0) 0 9 = some 9 ∧ Allowed narrow (readReg (aloneNarrow (.scW 5 1 2 0 0)) 1) 4 ∧
    kindOf (.lrW 5 1 0 0) = .loadReserved ∧
    issueTable (.lrW 5 1 0 0) = some ⟨.agu, .reg 1, .const 0, 0, 5, none⟩ := by decide

theorem witness_BranchAlone : Alone (aloneWith (.blt 1 2 16)) ⟨.ins (.blt 1 2 16), 0x1000, false⟩ ∧
    branchShape (.blt 1 2 16) (readReg (aloneWith (.blt 1 2 16))) = some (false, 16) := by decide

/-- An ECALL alone under the example dispatcher, with this call number and x10 = 4. -/
def aloneCalling (n : Word) : State :=
  { aloneWith .ecall with cfg := exiting.cfg, regs := (State.reset.regs.set 17 n).set 10 4 }

theorem witness_EcallAlone : (∀ n ∈ [1#32, 93], Alone (aloneCalling n) ⟨.ins .ecall, 0x1000, false⟩) ∧
    dispatch { aloneCalling 1 with cycle := (aloneCalling 1).cycle + 3 } = .resume 8 [] ∧
    dispatch { aloneCalling 93 with cycle := (aloneCalling 93).cycle + 3 } = .exit 4 := by
  simp only [List.forall_mem_cons]
  refine ⟨⟨?_, ?_, by simp⟩, by decide⟩ <;> decide

/-- The second reads and writes what the first writes. -/
theorem witness_AluPairInOrder :
    Quiet { aloneWith (.sub 5 1 2) with iq := [⟨.ins (.sub 5 1 2), 0, false⟩, ⟨.ins (.add 5 5 5), 4, false⟩] } ∧
    inOrderOp (.ins (.sub 5 1 2)) (readReg (aloneWith (.sub 5 1 2))) 0 = some (5, 4) ∧
    inOrderOp (.ins (.add 5 5 5)) (readReg (writeReg 5 4 (aloneWith (.sub 5 1 2)))) 4 = some (5, 8) := by decide

theorem witness_StoreThenLoadForwards :
    Quiet { aloneNarrow (.sw 1 2 0) with iq := [⟨.ins (.sw 1 2 0), 0, false⟩, ⟨.ins (.lh 5 1 0), 4, false⟩] } ∧
    narrow.wf ∧ storeShape (.sw 1 2 0) = some (.word, 1, 2, 0) ∧ loadShape (.lh 5 1 0) = some (.half, true, 5, 1, 0) ∧
    widthBytes .half ≤ widthBytes .word ∧ Allowed narrow (readReg (aloneNarrow (.sw 1 2 0)) 1 + 0) 4 := by decide

theorem witness_SquashErasesYounger :
    Quiet { aloneWith (.beq 1 2 16) with iq := [⟨.ins (.beq 1 2 16), 0, true⟩, ⟨.ins (.sw 1 2 0), 16, false⟩] } ∧
    Config.atReset.wf ∧ 2 ≤ Config.atReset.cacheLat ∧
    branchShape (.beq 1 2 16) (readReg (aloneWith (.beq 1 2 16))) = some (false, 16) ∧
    issueTable (.sw 1 2 0) ≠ none := by decide

/-! ### Every run -/

theorem stayed_of_reaches {c : Config} {k : Nat} {u : State}
    (h : Reaches c 0x1000#32 (Vector.replicate 32 0) staying k u) : u = stayed c k := by
  unfold stayed
  rw [h]

theorem stayed_hazardFree (c : Config) (n : Nat) (h : ∀ k ≤ n, HazardFree (stayed c k)) :
    HazardFreeRun c 0x1000#32 (Vector.replicate 32 0) staying n := by
  intro k hk u hu
  rw [stayed_of_reaches hu]
  exact h k hk

/-- The same parameters with other latencies and the other static predictor. -/
def slower : Config := { clockless with mulLat := 5, divLat := 7, cacheLat := 1, predictor := .static false }

/-- Five ticks commit the ADDI, under both sets of parameters. -/
theorem witness_CommitsAreSequential : clockless.wf ∧ Memory.wf staying ∧ ClockFree clockless ∧
    HazardFreeRun clockless 0x1000#32 (Vector.replicate 32 0) staying 5 ∧
    Reaches clockless 0x1000#32 (Vector.replicate 32 0) staying 5 (stayed clockless 5) ∧ slower.wf ∧
    SameButTiming clockless slower ∧ HazardFreeRun slower 0x1000#32 (Vector.replicate 32 0) staying 5 ∧
    Reaches slower 0x1000#32 (Vector.replicate 32 0) staying 5 (stayed slower 5) := by
  refine ⟨by decide, by decide, ?_, stayed_hazardFree _ _ (by decide), rfl, by decide, rfl, stayed_hazardFree _ _ (by decide), rfl⟩
  intro s k h
  simp [dispatch, h, clockless]

theorem test_first_commit :
    (commitTrace 5 (stayed clockless 0)).map (fun e => (e.op, e.pc, e.regs[1])) = [(.ins (.addi 1 0 1), 0x1000, 1)] := by
  decide

/-- An overlapping byte store in front of a word load is a hazard; the same word store is none (R442, cases 1 and 2). -/
theorem test_store_hazard :
    StoreHazard { freshLb 2 (.lw 7 6 0) with addr := 0x100 } (readyEntry (.sb 1 2 0) 0 0x101 0 5) ∧
    ¬ StoreHazard { freshLb 2 (.lw 7 6 0) with addr := 0x100 } (readyEntry (.sw 1 2 0) 0 0x100 0 5) := by decide

/-- Sequential execution of a load, JALR and SC.W, against the rules (R285, R328, R292). -/
theorem test_inOrder_load : inOrderEffect clockless (.lh 5 0 2) ⟨Vector.replicate 32 0, 0, [(3, 0x80#8)]⟩ =
    some ⟨(Vector.replicate 32 0).set 5 0xffff8000#32, 0, [(3, 0x80#8)]⟩ := by decide

theorem test_inOrder_jalr : followingPc (.jalr 1 1 5) ⟨Vector.replicate 32 0x10#32, 0, []⟩ = 0x14 := by decide

theorem witness_RunsKeepCommitting : Config.atReset.wf ∧
    ∃ s, Reaches Config.atReset 0x1000#32 (Vector.replicate 32 0) started.mem 1 s ∧ s.status = .running :=
  witness_RunInvariants

end Sys2Proof.Tests
end

section
/-! PROOFS. What exec does at each stage of the tick, whatever the instruction: one relation a stage, whose cases are the
shared operations. -/

namespace Sys2Proof.Machine

/-! ### The moves of each stage -/

theorem branchShape_of_kind {i : Instr} (h : kindOf i = .branch) :
    ∃ taken imm, branchShape i (fun _ => 0) = some (taken, imm) := by
  cases i <;> cases h <;> exact ⟨_, _, rfl⟩

theorem divOpOf_of_kind {i : Instr} (h : kindOf i = .div) : ∃ op, divOpOf i = some op := by
  cases i <;> cases h <;> exact ⟨_, rfl⟩

theorem loadShape_of_kind {i : Instr} (h : kindOf i = .load) :
    ∃ w sign rd a imm, loadShape i = some (w, sign, rd, a, imm) := by
  cases i <;> cases h <;> exact ⟨_, _, _, _, _, rfl⟩

theorem issueTable_suppressed_or_refused {i : Instr} (h : issueTable i = none) :
    kindOf i = .suppressed ∨ kindOf i = .refused := by
  cases i <;> cases h <;> first
    | exact .inl rfl
    | exact .inr rfl

/-- What exec does at the fetch stage (44_branch_fetch.md R322 to R327): a record joins iq, JALR also stalls fetch, or
the row is refused. -/
inductive FetchMove (s : State) : State → Prop
  | enqueue (o : Op) (p : Bool) (next : Word) : FetchMove s (enqueue o p next s)
  | jalr (i : Instr) : FetchMove s (fetchJalr i s)
  | refused : FetchMove s (fetchRefused s)

/-- What exec does at the issue stage: the form of R111, and what the table gives of it by kind. -/
inductive IssueMove (o : Op) (s : State) : State → Prop
  | issue (form : IssueForm) (hstore : ∀ w, opKind o = .store w → form.dest = 0)
      (hbranch : opKind o = .branch → form.dest = 0) (hamo : opKind o = .amo → form.data = none) :
      IssueMove o s (issueAs form s)
  | jalr (form : IssueForm) (hkind : opKind o = .alu) (hpool : form.pool = .alu) : IssueMove o s (issueJalr form s)
  | refused : IssueMove o s (fetchRefused s)

/-- What exec does for one entry of a pool (41_alu.md R170; 42_muldiv.md R240; 43_load_store_amo.md R260 to R264). -/
inductive ExecuteMove (o : Op) (t : Tag) (s : State) : State → Prop
  | alu (f : Word → Word → Word → Word) : ExecuteMove o t s (aluEvaluate f t s)
  | md (lat : Nat) (f : Word → Word → Option Word) (op : DivOp) : ExecuteMove o t s (mdAdvance lat f op t s)
  | load (h : opKind o = .load) : ExecuteMove o t s (aguLoad t s)
  | store (w : Width) (h : opKind o = .store w) : ExecuteMove o t s (aguStore t s)
  | amo (h : opKind o = .amo) : ExecuteMove o t s (aguAmo t s)
  | loadReserved (h : opKind o = .loadReserved) : ExecuteMove o t s (aguLoadReserved t s)
  | refused : ExecuteMove o t s (fetchRefused s)

/-- What exec does for one load-buffer entry (R270, R279, R281). -/
inductive LoadMove (o : Op) (t : Tag) (s : State) : State → Prop
  | load (w : Width) (sign : Bool) : LoadMove o t s (lbAdvance w (finishLoad w sign) t s)
  | amo (result new : Word → Word → Word) (h : opKind o = .amo) :
      LoadMove o t s (lbAdvance .word (finishAmo result new) t s)
  | other : LoadMove o t s s
  | refused : LoadMove o t s (fetchRefused s)

/-- What exec does at the commit stage: the class of the instruction (46_commit.md R370 to R376). -/
inductive CommitMove (o : Op) (s : State) : State → Prop
  | other (h : storeWidth o = none) : CommitMove o s (commitOther s)
  | store (w : Width) (h : storeWidth o = some w) : CommitMove o s (commitStore w s)
  | branch (imm : Word) (h : opKind o = .branch) : CommitMove o s (commitBranch imm s)
  | syscall (h : opKind o = .syscall) : CommitMove o s (commitSyscall s)
  | refused : CommitMove o s (fetchRefused s)

section

variable {o : Op} {s u : State} {t : Tag}

theorem execOp_fetch (hs : s.stage = .fetch) (h : execOp o s = .next u) : FetchMove s u := by
  cases o with
  | nop =>
    rw [show execOp .nop s = .next (fetchNop s) from life_fetch hs _ _ _ _ _] at h
    cases h
    exact .enqueue _ _ _
  | ins i =>
    have next (v : State) (e : exec i s = .next v) (m : FetchMove s v) : FetchMove s u := by
      cases e.symm.trans h
      exact m
    by_cases hb : kindOf i = .branch
    · obtain ⟨_, _, hbr⟩ := branchShape_of_kind hb
      exact next _ (exec_fetch_branch hs hbr) (.enqueue _ _ _)
    by_cases hn : kindOf i = .suppressed
    · exact next _ (exec_fetch_suppressed hs hn) (.enqueue _ _ _)
    by_cases hf : kindOf i = .refused
    · exact next _ (exec_refused hf) .refused
    cases hj : isJal i with
    | true =>
      cases i <;> cases hj
      exact next _ (life_fetch hs _ _ _ _ _) (.enqueue _ _ _)
    | false =>
      cases hr : isJalr i with
      | true =>
        cases i <;> cases hr
        exact next _ (life_fetch hs _ _ _ _ _) (.jalr _)
      | false => exact next _ (exec_fetch_next hs hb hj hr hn hf) (.enqueue _ _ _)

theorem issueTable_store {i : Instr} {w : Width} {form : IssueForm} (h : issueTable i = some form)
    (hk : kindOf i = .store w) : form.dest = 0 := by
  cases i <;> cases hk <;> cases h <;> rfl

theorem issueTable_branch {i : Instr} {form : IssueForm} (h : issueTable i = some form)
    (hk : kindOf i = .branch) : form.dest = 0 := by
  cases i <;> cases hk <;> cases h <;> rfl

theorem issueTable_amo {i : Instr} {form : IssueForm} (h : issueTable i = some form)
    (hk : kindOf i = .amo) : form.data = none := by
  cases i <;> cases hk <;> cases h <;> rfl

theorem issueTable_jalr {i : Instr} {form : IssueForm} (h : issueTable i = some form) (hj : isJalr i = true) :
    form.pool = .alu ∧ kindOf i = .alu := by
  cases i <;> cases hj
  cases h
  exact ⟨rfl, rfl⟩

theorem exec_issue_suppressed {i : Instr} (hs : s.stage = .issue) (h : kindOf i = .suppressed) :
    exec i s = .next (issueAs (aluForm (.const 0) (.const 0) 0) s) := by
  cases i <;> cases h <;> exact life_issue hs _ _ _ _ _

theorem execOp_issue (hs : s.stage = .issue) (h : execOp o s = .next u) : IssueMove o s u := by
  cases o with
  | nop =>
    rw [show execOp .nop s = .next (issueAs (aluForm (.const 0) (.const 0) 0) s) from life_issue hs _ _ _ _ _] at h
    cases h
    exact .issue _ (fun _ _ => rfl) (fun _ => rfl) (fun _ => rfl)
  | ins i =>
    have next (v : State) (e : exec i s = .next v) (m : IssueMove (.ins i) s v) : IssueMove (.ins i) s u := by
      cases e.symm.trans h
      exact m
    cases hi : issueTable i with
    | none =>
      rcases issueTable_suppressed_or_refused hi with hk | hk
      · exact next _ (exec_issue_suppressed hs hk) (.issue _ (fun _ _ => rfl) (fun _ => rfl) (fun _ => rfl))
      · exact next _ (exec_refused hk) .refused
    | some form =>
      cases hj : isJalr i with
      | true =>
        obtain ⟨hpool, hkind⟩ := issueTable_jalr hi hj
        exact next _ (exec_issue_jalr hs hi hj) (.jalr _ hkind hpool)
      | false =>
        exact next _ (exec_issue hs hi hj)
          (.issue _ (fun _ => issueTable_store hi) (issueTable_branch hi) (issueTable_amo hi))

theorem execOp_execute (hs : s.stage = .execute t) (h : execOp o s = .next u) : ExecuteMove o t s u := by
  cases o with
  | nop =>
    rw [show execOp .nop s = .next (aluEvaluate (fun _ _ _ => 0) t s) from life_execute hs _ _ _ _ _] at h
    cases h
    exact .alu _
  | ins i =>
    have next (v : State) (e : exec i s = .next v) (m : ExecuteMove (.ins i) t s v) : ExecuteMove (.ins i) t s u := by
      cases e.symm.trans h
      exact m
    have alu (hk : kindOf i = .alu ∨ kindOf i = .branch ∨ kindOf i = .syscall ∨ kindOf i = .suppressed) :
        ExecuteMove (.ins i) t s u := by
      obtain ⟨f, he⟩ := exec_execute_alu hs hk
      exact next _ he (.alu f)
    cases hk : kindOf i with
    | alu => exact alu (.inl hk)
    | branch => exact alu (.inr (.inl hk))
    | syscall => exact alu (.inr (.inr (.inl hk)))
    | suppressed => exact alu (.inr (.inr (.inr hk)))
    | mul =>
      obtain ⟨f, he⟩ := exec_execute_mul hs hk
      exact next _ he (.md _ _ _)
    | div =>
      obtain ⟨op, hop⟩ := divOpOf_of_kind hk
      exact next _ (exec_execute_div hs hop) (.md _ _ _)
    | load => exact next _ (exec_execute_load hs hk) (.load hk)
    | loadReserved => exact next _ (exec_execute_loadReserved hs hk) (.loadReserved hk)
    | store w => exact next _ (exec_execute_store hs hk) (.store w hk)
    | amo => exact next _ (exec_execute_amo hs hk) (.amo hk)
    | refused => exact next _ (exec_refused hk) .refused

theorem execOp_load (hs : s.stage = .load t) (h : execOp o s = .next u) : LoadMove o t s u := by
  cases o with
  | nop =>
    rw [show execOp .nop s = .next s from life_load hs _ _ _ _ _] at h
    cases h
    exact .other
  | ins i =>
    have next (v : State) (e : exec i s = .next v) (m : LoadMove (.ins i) t s v) : LoadMove (.ins i) t s u := by
      cases e.symm.trans h
      exact m
    by_cases hl : kindOf i = .load
    · obtain ⟨w, sign, _, _, _, hshape⟩ := loadShape_of_kind hl
      exact next _ (exec_load_load hs hshape) (.load w sign)
    by_cases ha : kindOf i = .amo
    · obtain ⟨result, new, he, _⟩ := exec_load_amo hs ha
      exact next _ he (.amo result new ha)
    by_cases hr : kindOf i = .refused
    · exact next _ (exec_refused hr) .refused
    exact next _ (exec_load_other hs hl ha hr) .other

theorem execOp_commit (hs : s.stage = .commit) (h : execOp o s = .next u) : CommitMove o s u := by
  cases o with
  | nop =>
    rw [show execOp .nop s = .next (commitOther s) from life_commit hs _ _ _ _ _] at h
    cases h
    exact .other rfl
  | ins i =>
    have next (v : State) (e : exec i s = .next v) (m : CommitMove (.ins i) s v) : CommitMove (.ins i) s u := by
      cases e.symm.trans h
      exact m
    cases hw : storeWidth (.ins i) with
    | some w => exact next _ (exec_commit_store hs hw) (.store w hw)
    | none =>
      have other (hk : kindOf i = .alu ∨ kindOf i = .mul ∨ kindOf i = .div ∨ kindOf i = .load ∨
          kindOf i = .loadReserved ∨ kindOf i = .suppressed) : CommitMove (.ins i) s u :=
        next _ (exec_commit_other hs hk) (.other hw)
      cases hk : kindOf i with
      | branch =>
        obtain ⟨_, imm, hb⟩ := branchShape_of_kind hk
        exact next _ (exec_commit_branch hs hb) (.branch imm hk)
      | syscall => exact next _ (exec_commit_syscall hs hk) (.syscall hk)
      | refused => exact next _ (exec_refused hk) .refused
      | alu => exact other (.inl hk)
      | mul => exact other (.inr (.inl hk))
      | div => exact other (.inr (.inr (.inl hk)))
      | load => exact other (.inr (.inr (.inr (.inl hk))))
      | loadReserved => exact other (.inr (.inr (.inr (.inr (.inl hk)))))
      | suppressed => exact other (.inr (.inr (.inr (.inr (.inr hk)))))
      | store w => simp [storeWidth, opKind, hk] at hw
      | amo => simp [storeWidth, opKind, hk] at hw

end

end Sys2Proof.Machine
end

section
/-! PROOFS. Induction over the stages of a tick, and what the broadcast, execute and fetch stages leave alone. -/

namespace Sys2Proof.Machine

/-! ### The broadcast and execute stages: what they leave alone -/

/-- The tags of the reorder buffer, head first. -/
def robTags (s : State) : List Tag := s.rob.map (·.tag)

/-- `u` differs from `s` at most in the pools, the load buffer, what the reorder-buffer entries hold besides their tags,
the status and the model's own `stage`. -/
structure BackendOnly (s u : State) : Prop where
  regs : u.regs = s.regs
  mem : u.mem = s.mem
  pc : u.pc = s.pc
  rst : u.rst = s.rst
  iq : u.iq = s.iq
  jalrWait : u.jalrWait = s.jalrWait
  nextTag : u.nextTag = s.nextTag
  cycle : u.cycle = s.cycle
  pred : u.pred = s.pred
  cfg : u.cfg = s.cfg
  tags : robTags u = robTags s

theorem BackendOnly.refl (s : State) : BackendOnly s s := ⟨rfl, rfl, rfl, rfl, rfl, rfl, rfl, rfl, rfl, rfl, rfl⟩

theorem BackendOnly.trans {s u v : State} (h : BackendOnly s u) (g : BackendOnly u v) : BackendOnly s v :=
  ⟨g.regs.trans h.regs, g.mem.trans h.mem, g.pc.trans h.pc, g.rst.trans h.rst, g.iq.trans h.iq,
    g.jalrWait.trans h.jalrWait, g.nextTag.trans h.nextTag, g.cycle.trans h.cycle, g.pred.trans h.pred,
    g.cfg.trans h.cfg, g.tags.trans h.tags⟩

theorem BackendOnly.setStage (s : State) (p : Stage) : BackendOnly s { s with stage := p } :=
  ⟨rfl, rfl, rfl, rfl, rfl, rfl, rfl, rfl, rfl, rfl, rfl⟩

theorem BackendOnly.raise (s : State) (f : Fault) : BackendOnly s (raise f s) :=
  ⟨rfl, rfl, rfl, rfl, rfl, rfl, rfl, rfl, rfl, rfl, rfl⟩

theorem BackendOnly.setLb (s : State) (l : LbEntry) : BackendOnly s (setLb l s) :=
  ⟨rfl, rfl, rfl, rfl, rfl, rfl, rfl, rfl, rfl, rfl, rfl⟩

theorem BackendOnly.setMd (s : State) (e : RsEntry) : BackendOnly s (setMd e s) :=
  ⟨rfl, rfl, rfl, rfl, rfl, rfl, rfl, rfl, rfl, rfl, rfl⟩

theorem BackendOnly.addLb (s : State) (l : LbEntry) : BackendOnly s (addLb l s) :=
  ⟨rfl, rfl, rfl, rfl, rfl, rfl, rfl, rfl, rfl, rfl, rfl⟩

theorem BackendOnly.dropAgu (s : State) (t : Tag) : BackendOnly s (dropAgu t s) :=
  ⟨rfl, rfl, rfl, rfl, rfl, rfl, rfl, rfl, rfl, rfl, rfl⟩

theorem BackendOnly.updateRob (s : State) (t : Tag) {f : RobEntry → RobEntry} (hf : ∀ h, (f h).tag = h.tag) :
    BackendOnly s (updateRob t f s) :=
  ⟨rfl, rfl, rfl, rfl, rfl, rfl, rfl, rfl, rfl, rfl, updateFirst_map _ hf _⟩

theorem BackendOnly.setAddress (s : State) (t : Tag) (a : Word) : BackendOnly s (setAddress t a s) :=
  .updateRob s t fun _ => rfl

theorem BackendOnly.setPools (s : State) (alu md agu : List RsEntry) :
    BackendOnly s { s with rsAlu := alu, rsMd := md, rsAgu := agu } :=
  ⟨rfl, rfl, rfl, rfl, rfl, rfl, rfl, rfl, rfl, rfl, rfl⟩

theorem mdAdvance_backendOnly (lat : Nat) (f : Word → Word → Option Word) (op : DivOp) (t : Tag) (s : State) :
    BackendOnly s (mdAdvance lat f op t s) := by
  unfold mdAdvance
  split
  · exact .refl s
  · dsimp only
    split
    · split
      · exact .setMd s _
      · exact (BackendOnly.setMd s _).trans (.raise _ _)
    · exact .setMd s _

theorem aguLoad_backendOnly (t : Tag) (s : State) : BackendOnly s (aguLoad t s) := by
  unfold aguLoad
  split
  · exact .refl s
  · exact (BackendOnly.addLb s _).trans (.dropAgu _ t)

theorem aguStore_backendOnly (t : Tag) (s : State) : BackendOnly s (aguStore t s) := by
  unfold aguStore
  split
  · exact .refl s
  · split
    · exact .raise s _
    · exact (BackendOnly.setAddress s t _).trans (.dropAgu _ t)

theorem aguAmo_backendOnly (t : Tag) (s : State) : BackendOnly s (aguAmo t s) := by
  unfold aguAmo
  split
  · exact .refl s
  · split
    · exact .raise s _
    · exact (BackendOnly.setAddress s t _).trans ((BackendOnly.addLb _ _).trans (.dropAgu _ t))

theorem aguLoadReserved_backendOnly (t : Tag) (s : State) : BackendOnly s (aguLoadReserved t s) := by
  unfold aguLoadReserved
  split
  · exact .refl s
  · split
    · exact .raise s _
    · exact (BackendOnly.setAddress s t _).trans (.setPools _ _ _ _)

theorem ExecuteMove.backendOnly {o : Op} {t : Tag} {s u : State} (m : ExecuteMove o t s u) : BackendOnly s u := by
  cases m with
  | alu f => exact .setPools s _ _ _
  | md lat f op => exact mdAdvance_backendOnly lat f op t s
  | load => exact aguLoad_backendOnly t s
  | store => exact aguStore_backendOnly t s
  | amo => exact aguAmo_backendOnly t s
  | loadReserved => exact aguLoadReserved_backendOnly t s
  | refused => exact .raise s _

theorem lbProceed_backendOnly (wl : Width) {fin : LbEntry → Word → State → State}
    (hfin : ∀ l v u, BackendOnly u (fin l v u)) (l : LbEntry) (s : State) : BackendOnly s (lbProceed wl fin l s) := by
  have start : BackendOnly s (setLb { l with progress := l.progress + 1 } s) := .setLb s _
  unfold lbProceed
  dsimp only
  split
  · split
    · exact start.trans (hfin _ _ _)
    · split
      · exact start.trans (.raise _ _)
      · exact start.trans (hfin _ _ _)
  · exact start

theorem lbAdvance_backendOnly (wl : Width) {fin : LbEntry → Word → State → State}
    (hfin : ∀ l v u, BackendOnly u (fin l v u)) (t : Tag) (s : State) : BackendOnly s (lbAdvance wl fin t s) := by
  unfold lbAdvance
  split
  · exact .refl s
  · split
    · exact lbProceed_backendOnly wl hfin _ s
    · split
      · exact .refl s
      · exact lbProceed_backendOnly wl hfin _ s
      · exact lbProceed_backendOnly wl hfin _ s
      · exact .raise s _

theorem finishAmo_backendOnly (result new : Word → Word → Word) (l : LbEntry) (old : Word) (s : State) :
    BackendOnly s (finishAmo result new l old s) := by
  have start : BackendOnly s (setLb { l with result := result old l.src } s) := .setLb s _
  unfold finishAmo
  dsimp only
  split
  · exact start.trans (.raise _ _)
  · exact start.trans (.updateRob _ _ fun _ => rfl)

theorem LoadMove.backendOnly {o : Op} {t : Tag} {s u : State} (m : LoadMove o t s u) : BackendOnly s u := by
  cases m with
  | load w sign => exact lbAdvance_backendOnly w (fun _ _ u => .setLb u _) t s
  | amo result new => exact lbAdvance_backendOnly .word (finishAmo_backendOnly result new) t s
  | other => exact .refl s
  | refused => exact .raise s _

/-- Calling exec at a stage: the stage is set before and put back after. -/
theorem execAt_inv {p : Stage} {o : Op} {s u : State} (h : execAt p o s = .next u) :
    ∃ v, execOp o { s with stage := p } = .next v ∧ u = { v with stage := .fetch } := by
  obtain ⟨v, h1, h2⟩ := execAt_next p o s
  rw [h2] at h
  cases h
  exact ⟨v, h1, rfl⟩

theorem execAt_execute_backendOnly {t : Tag} {o : Op} {s u : State} (h : execAt (.execute t) o s = .next u) :
    BackendOnly s u := by
  obtain ⟨v, hv, rfl⟩ := execAt_inv h
  exact (BackendOnly.setStage s _).trans ((execOp_execute rfl hv).backendOnly.trans (.setStage v _))

theorem execAt_load_backendOnly {t : Tag} {o : Op} {s u : State} (h : execAt (.load t) o s = .next u) :
    BackendOnly s u := by
  obtain ⟨v, hv, rfl⟩ := execAt_inv h
  exact (BackendOnly.setStage s _).trans ((execOp_load rfl hv).backendOnly.trans (.setStage v _))

/-! ### Induction over the stages of a tick -/

/-- `P` where the run goes on at `u`, `S` where it has stopped there. -/
def Goes (P S : State → Prop) (u : State) : Prop := (u.status = .running → P u) ∧ (u.status ≠ .running → S u)

theorem Goes.of_both {P : State → Prop} {u : State} (h : P u) : Goes P P u := ⟨fun _ => h, fun _ => h⟩

theorem Goes.both {P : State → Prop} {u : State} (h : Goes P P u) : P u := by
  by_cases hu : u.status = .running
  · exact h.1 hu
  · exact h.2 hu

theorem Goes.running {P S : State → Prop} {u : State} (hu : u.status = .running) (h : P u) : Goes P S u :=
  ⟨fun _ => h, fun hn => absurd hu hn⟩

theorem Goes.stopped {P S : State → Prop} {u : State} (hu : u.status ≠ .running) (h : S u) : Goes P S u :=
  ⟨fun hr => absurd hr hu, fun _ => h⟩

theorem Goes.imp {P Q S : State → Prop} {u : State} (h : Goes P S u) (f : P u → Q u) : Goes Q S u := ⟨f ∘ h.1, h.2⟩

theorem andThen_goes {C D S : State → Prop} {o : Out} {f : State → Out} {t : State}
    (first : ∀ s, o = .next s → Goes C S s)
    (second : ∀ s, s.status = .running → C s → f s = .next t → Goes D S t) (h : andThen o f = .next t) :
    Goes D S t := by
  obtain ⟨s, hs, ⟨hr, ht⟩ | ⟨hr, rfl⟩⟩ := andThen_next h
  · exact second s hr ((first s hs).1 hr) ht
  · exact .stopped hr ((first _ hs).2 hr)

/-- A unit's step keeps what its visits keep, each visit known to be for an entry of the list and made while Running. -/
theorem runEntries_induction {P S : State → Prop} {stageOf : Tag → Stage} {es : List (Tag × Op)}
    (visit : ∀ e ∈ es, ∀ s u, s.status = .running → P s → execAt (stageOf e.1) e.2 s = .next u → Goes P S u) :
    ∀ {s u : State}, s.status = .running → P s → runEntries stageOf es s = .next u → Goes P S u := by
  induction es with
  | nil =>
    intro s u hr hs h
    cases h
    exact .running hr hs
  | cons e es ih =>
    intro s u hr hs h
    exact andThen_goes (fun v hv => visit e List.mem_cons_self s v hr hs hv)
      (fun v hvr hv hx => ih (fun e' he' => visit e' (List.mem_cons_of_mem _ he')) hvr hv hx) h

/-- The execute stage keeps what the step of each of its four units keeps. -/
theorem executeStage_induction {P S : State → Prop}
    (unit : ∀ s u, s.status = .running → P s →
      (aluStep s = .next u ∨ mdStep s = .next u ∨ aguStep s = .next u ∨ lbStep s = .next u) → Goes P S u)
    {s u : State} (hs : s.status = .running) (hP : P s) (h : executeStage s = .next u) : Goes P S u :=
  andThen_goes (fun _ hc => andThen_goes (fun _ hb => andThen_goes
      (fun a ha => unit s a hs hP (.inl ha))
      (fun a hr ha hx => unit a _ hr ha (.inr (.inl hx))) hb)
      (fun b hr hb hx => unit b _ hr hb (.inr (.inr (.inl hx)))) hc)
    (fun c hr hc hx => unit c _ hr hc (.inr (.inr (.inr hx)))) h

/-- What each stage establishes from what the stage before it established, a step establishes: `Q` at the end of a tick
that completes, `S` where a stage ended the run. -/
theorem step_induction {C B X I F Q S : State → Prop} {s t : State} (h : step s = .next t)
    (commit : ∀ a, commitStage s = .next a → Goes C S a)
    (broadcast : ∀ a b, a.status = .running → C a → broadcastStage a = .next b → Goes B S b)
    (execute : ∀ b c, b.status = .running → B b → executeStage b = .next c → Goes X S c)
    (issue : ∀ c d, c.status = .running → X c → issueStage c = .next d → Goes I S d)
    (fetch : ∀ d e, d.status = .running → I d → fetchStage d = .next e → Goes F S e)
    (completed : ∀ e, e.status = .running → F e → Q { e with cycle := e.cycle + 1 }) : Goes Q S t := by
  have ht : tick s = .next t := by
    rw [← h, step, (step_next h).1]
  refine andThen_goes (fun e he => andThen_goes (fun d hd => andThen_goes (fun c hc => andThen_goes (fun b hb =>
    andThen_goes commit (fun a hr ha hx => broadcast a b hr ha hx) hb)
    (fun b hr hb hx => execute b c hr hb hx) hc) (fun c hr hc hx => issue c d hr hc hx) hd)
    (fun d hr hd hx => fetch d e hr hd hx) he) (fun e hr he hx => ?_) ht
  cases hx
  exact .running hr (completed e hr he)

/-! ### What the stages leave alone -/

theorem runEntries_backendOnly {stageOf : Tag → Stage} {es : List (Tag × Op)}
    (visit : ∀ t o s u, execAt (stageOf t) o s = .next u → BackendOnly s u) {s u : State} (hs : s.status = .running)
    (h : runEntries stageOf es s = .next u) : BackendOnly s u :=
  (runEntries_induction (P := BackendOnly s) (fun _ _ _ _ _ hv hx => .of_both (hv.trans (visit _ _ _ _ hx))) hs
    (.refl s) h).both

theorem executeStage_backendOnly {s u : State} (hs : s.status = .running) (h : executeStage s = .next u) :
    BackendOnly s u := by
  refine (executeStage_induction (P := BackendOnly s) (fun v w hr hv hx => .of_both (hv.trans ?_)) hs (.refl s) h).both
  rcases hx with hx | hx | hx | hx
  · exact runEntries_backendOnly (fun _ _ _ _ => execAt_execute_backendOnly) hr hx
  · exact runEntries_backendOnly (fun _ _ _ _ => execAt_execute_backendOnly) hr hx
  · exact runEntries_backendOnly (fun _ _ _ _ => execAt_execute_backendOnly) hr hx
  · exact runEntries_backendOnly (fun _ _ _ _ => execAt_load_backendOnly) hr hx

theorem markEntry_tag (v : Word) (h : RobEntry) : (markEntry v h).tag = h.tag := by
  unfold markEntry
  split <;> rfl

theorem resolveRob_tag (m : CdbMsg) (h : RobEntry) : (resolveRob m h).tag = h.tag := by
  unfold resolveRob
  split <;> rfl

theorem removeHarvested_backendOnly (x : Harvested) (s : State) : BackendOnly s (removeHarvested x s) := by
  unfold removeHarvested
  split <;> exact ⟨rfl, rfl, rfl, rfl, rfl, rfl, rfl, rfl, rfl, rfl, rfl⟩

theorem harvestAll_backendOnly (xs : List Harvested) :
    ∀ (s : State) (ms : List CdbMsg), BackendOnly s (harvestAll xs s ms).1 := by
  induction xs with
  | nil => exact fun s _ => .refl s
  | cons x xs ih =>
    intro s ms
    have removed := removeHarvested_backendOnly x s
    unfold harvestAll
    dsimp only
    split
    · exact removed.trans (.raise _ _)
    · exact removed.trans ((BackendOnly.updateRob _ _ (markEntry_tag x.value)).trans (ih _ _))

theorem deliver_backendOnly (s : State) (m : CdbMsg) : BackendOnly s (deliver s m) :=
  ⟨rfl, rfl, rfl, rfl, rfl, rfl, rfl, rfl, rfl, rfl, by simp [robTags, Function.comp_def, resolveRob_tag]⟩

theorem deliverAll_backendOnly (ms : List CdbMsg) : ∀ s : State, BackendOnly s (ms.foldl deliver s) := by
  induction ms with
  | nil => exact .refl
  | cons m ms ih => exact fun s => (deliver_backendOnly s m).trans (ih _)

theorem broadcastStage_backendOnly {s u : State} (h : broadcastStage s = .next u) : BackendOnly s u := by
  have harvest := harvestAll_backendOnly (harvestSet s) s []
  unfold broadcastStage at h
  dsimp only at h
  split at h
  · cases h
    exact harvest.trans (deliverAll_backendOnly _ _)
  · cases h
    exact harvest

/-! ### The fetch stage -/

/-- `u` differs from `s` at most in pc, iq, the JALR stall, the status and the model's own `stage`. -/
structure FrontendOnly (s u : State) : Prop where
  regs : u.regs = s.regs
  mem : u.mem = s.mem
  rst : u.rst = s.rst
  rsAlu : u.rsAlu = s.rsAlu
  rsMd : u.rsMd = s.rsMd
  rsAgu : u.rsAgu = s.rsAgu
  rob : u.rob = s.rob
  lb : u.lb = s.lb
  nextTag : u.nextTag = s.nextTag
  cycle : u.cycle = s.cycle
  pred : u.pred = s.pred
  cfg : u.cfg = s.cfg

theorem FetchMove.frontendOnly {s u : State} (m : FetchMove s u) : FrontendOnly s u := by
  cases m <;> exact ⟨rfl, rfl, rfl, rfl, rfl, rfl, rfl, rfl, rfl, rfl, rfl, rfl⟩

/-- What the fetch stage can do: wait, stop the run with a fault, or do an instruction's fetch move, at its own pc or,
where the JALR stall has a target by now, at that target (44_branch_fetch.md R320, R328). -/
theorem fetchStage_cases {s u : State} (h : fetchStage s = .next u) :
    (s.jalrWait = .unissued ∧ u = s) ∨
    (∃ t, s.jalrWait = .waiting t ∧ s.rsAlu.find? (fun e => e.dest == t) = none ∧ u = raise (.staleTag t) s) ∨
    (∃ t e, s.jalrWait = .waiting t ∧ s.rsAlu.find? (fun e => e.dest == t) = some e ∧ e.qj ≠ 0 ∧ u = s) ∨
    (∃ pc f, (∀ t, f ≠ .staleTag t) ∧ u = raise f { s with pc := pc, jalrWait := .none }) ∨
    (∃ pc v, FetchMove { s with pc := pc, jalrWait := .none, stage := .fetch } v ∧ u = { v with stage := .fetch }) := by
  have here (pc : Word) (h : fetchHere { s with pc := pc, jalrWait := .none } = .next u) :
      (∃ pc f, (∀ t, f ≠ .staleTag t) ∧ u = raise f { s with pc := pc, jalrWait := .none }) ∨
      (∃ pc v, FetchMove { s with pc := pc, jalrWait := .none, stage := .fetch } v ∧
        u = { v with stage := .fetch }) := by
    unfold fetchHere at h
    split at h
    · rename_i f hf
      cases h
      refine .inl ⟨pc, f, fun t => ?_, rfl⟩
      rcases accessFault_some hf with rfl | rfl <;> simp
    · split at h
      · cases h
        exact .inl ⟨pc, _, fun t => by simp, rfl⟩
      · obtain ⟨v, hv, rfl⟩ := execAt_inv h
        exact .inr ⟨pc, v, execOp_fetch rfl hv, rfl⟩
  unfold fetchStage at h
  split at h
  · rename_i hw
    rw [show s = { s with pc := s.pc, jalrWait := .none } by rw [← hw]] at h
    exact .inr (.inr (.inr (here _ h)))
  · rename_i hw
    cases h
    exact .inl ⟨hw, rfl⟩
  · rename_i t hw
    split at h
    · rename_i hn
      cases h
      exact .inr (.inl ⟨t, hw, hn, rfl⟩)
    · rename_i e he
      split at h
      · rename_i hr
        cases h
        refine .inr (.inr (.inl ⟨t, e, hw, he, ?_, rfl⟩))
        simpa [resumeTarget] using hr
      · exact .inr (.inr (.inr (here _ h)))

theorem fetchStage_frontendOnly {s u : State} (h : fetchStage s = .next u) : FrontendOnly s u := by
  rcases fetchStage_cases h with ⟨_, rfl⟩ | ⟨_, _, _, rfl⟩ | ⟨_, _, _, _, _, rfl⟩ | ⟨_, _, _, rfl⟩ | ⟨_, _, m, rfl⟩
  case inr.inr.inr.inr =>
    obtain ⟨h1, h2, h3, h4, h5, h6, h7, h8, h9, h10, h11, h12⟩ := m.frontendOnly
    exact ⟨h1, h2, h3, h4, h5, h6, h7, h8, h9, h10, h11, h12⟩
  all_goals exact ⟨rfl, rfl, rfl, rfl, rfl, rfl, rfl, rfl, rfl, rfl, rfl, rfl⟩

end Sys2Proof.Machine
end

section
/-! PROOFS. The commit stage by its results, the tags of a tick and register 0: the statements about one step. -/

namespace Sys2Proof.Machine

/-! ### The commit stage -/

/-- What commit can do with the head of the reorder buffer, an instruction `o` (46_commit.md R370 to R376, R383). -/
inductive CommitResult (o : Op) (s : State) : State → Prop
  /-- the head is not ready -/
  | idle : CommitResult o s s
  /-- a fault or an exit: nothing else is written -/
  | stop (status : RunStatus) (hstop : status ≠ .running) (hstale : ¬ IsStaleTag status) :
      CommitResult o s { s with status := status }
  /-- the latency tick of a store (R372) -/
  | hold (h : RobEntry) (younger : List RobEntry) (hrob : s.rob = h :: younger) (hstore : storeWidth o ≠ none)
      (haddr : h.addrReady = true) (hvalue : h.valueReady = true) :
      CommitResult o s { s with rob := { h with progress := 1 } :: younger }
  /-- the head leaves, after its register write and release -/
  | retire (h : RobEntry) (younger : List RobEntry) (mem : Memory) (hrob : s.rob = h :: younger)
      (hdone : h.complete = true ∨ storeWidth o ≠ none ∧ h.addrReady = true ∧ h.progress ≠ 0) :
      CommitResult o s (retire (writeBack h { s with mem := mem }))
  /-- a branch that was predicted right leaves -/
  | branch (h : RobEntry) (younger : List RobEntry) (pred : PredState) (hrob : s.rob = h :: younger)
      (hkind : opKind o = .branch) (hdone : h.complete = true) : CommitResult o s (retire { s with pred := pred })
  /-- a misprediction or a system call that continues -/
  | squash (regs : RegFile) (mem : Memory) (pc : Word) (pred : PredState) (hzero : regs[0] = s.regs[0]) :
      CommitResult o s (squash { s with regs := regs, mem := mem, pc := pc, pred := pred })

theorem toNat_ne_zero {r : Reg} (h : r ≠ 0) : r.toNat ≠ 0 := fun e => h (BitVec.eq_of_toNat_eq e)

theorem regsWith_zero (s : State) (r : Reg) (v : Word) : (regsWith s r v)[0] = s.regs[0] := by
  unfold regsWith
  split
  · rfl
  · rename_i hr
    simp [toNat_ne_zero hr]

theorem raise_not_stale {f : Fault} (h : ∀ t, f ≠ .staleTag t) : ¬ IsStaleTag (.faulted f) := by
  rintro ⟨t, ht⟩
  cases ht
  exact h t rfl

theorem accessFault_not_stale {c : Config} {a : Word} {n : Nat} {f : Fault} (h : accessFault c a n = some f) :
    ∀ t, f ≠ .staleTag t := by
  intro t
  rcases accessFault_some h with rfl | rfl <;> simp

variable {o : Op} {s u : State}

theorem CommitResult.raise {f : Fault} (h : ∀ t, f ≠ .staleTag t) : CommitResult o s (raise f s) :=
  .stop _ (by simp) (raise_not_stale h)

theorem commitOther_result : CommitResult o s (commitOther s) := by
  unfold commitOther
  split
  · exact .idle
  · rename_i h younger hrob
    split
    · exact .idle
    · rename_i hc
      exact .retire h younger s.mem hrob (.inl (by simpa using hc))

theorem commitStore_result {w : Width} (hw : storeWidth o = some w) : CommitResult o s (commitStore w s) := by
  have hstore : storeWidth o ≠ none := by simp [hw]
  unfold commitStore
  split
  · exact .idle
  · rename_i h younger hrob
    split
    · exact .idle
    · rename_i hready
      obtain ⟨haddr, hvalue⟩ : h.addrReady = true ∧ h.valueReady = true := by simpa using hready
      split
      · exact .hold h younger hrob hstore haddr hvalue
      · rename_i hprogress
        split
        · rename_i f hf
          exact .raise (accessFault_not_stale hf)
        · exact .retire h younger _ hrob (.inr ⟨hstore, haddr, hprogress⟩)

theorem commitBranch_result {imm : Word} (hk : opKind o = .branch) : CommitResult o s (commitBranch imm s) := by
  unfold commitBranch
  split
  · exact .idle
  · rename_i h younger hrob
    split
    · exact .idle
    · rename_i hc
      dsimp only
      split
      · exact .branch h younger _ hrob hk (by simpa using hc)
      · exact .squash s.regs s.mem _ _ rfl

theorem syscall_squash (v : Word) (writes : List (Word × Byte)) (h : RobEntry) (s : State) :
    squash (retire (release 10 h.tag { syscallEffect v writes s with pc := h.result })) =
      squash { s with regs := regsWith s 10 v, mem := writeBytes s.mem writes, pc := h.result, pred := s.pred } := by
  rw [release_eq, syscallEffect, writeReg_eq]
  rfl

theorem commitSyscall_result : CommitResult o s (commitSyscall s) := by
  unfold commitSyscall
  split
  · exact .idle
  · split
    · exact .idle
    · split
      · rw [syscall_squash]
        exact .squash _ _ _ _ (regsWith_zero s 10 _)
      · exact .stop _ (by simp) (by simp)
      · exact .raise fun t => by simp
      · exact .raise fun t => by simp

theorem CommitMove.result (m : CommitMove o s u) : CommitResult o s u := by
  cases m with
  | other => exact commitOther_result
  | store w hw => exact commitStore_result hw
  | branch imm hk => exact commitBranch_result hk
  | syscall => exact commitSyscall_result
  | refused => exact .raise fun t => by simp

/-- The commit stage: nothing, or what commit can do with the head. -/
theorem commitStage_cases (h : commitStage s = .next u) :
    (s.rob = [] ∧ u = s) ∨
    ∃ head younger v, s.rob = head :: younger ∧ CommitResult head.ins.op { s with stage := .commit } v ∧
      u = { v with stage := .fetch } := by
  unfold commitStage at h
  split at h
  · rename_i hrob
    cases h
    exact .inl ⟨hrob, rfl⟩
  · rename_i head younger hrob
    obtain ⟨v, hv, rfl⟩ := execAt_inv h
    exact .inr ⟨head, younger, v, hrob, (execOp_commit rfl hv).result, rfl⟩

/-- The issue stage: nothing, or the issue move of the head of iq. -/
theorem issueStage_cases (h : issueStage s = .next u) :
    (s.iq = [] ∧ u = s) ∨
    ∃ r waiting v, s.iq = r :: waiting ∧ IssueMove r.op { s with stage := .issue } v ∧
      u = { v with stage := .fetch } := by
  unfold issueStage at h
  split at h
  · rename_i hiq
    cases h
    exact .inl ⟨hiq, rfl⟩
  · rename_i r waiting hiq
    obtain ⟨v, hv, rfl⟩ := execAt_inv h
    exact .inr ⟨r, waiting, v, hiq, execOp_issue rfl hv, rfl⟩

/-! ### The tags of a tick -/

/-- Only tags of `s` are in the reorder buffer, in their order, and none has been handed out. -/
def TagsKept (s u : State) : Prop := (robTags u).Sublist (robTags s) ∧ u.nextTag = s.nextTag

/-- At most one tag has been handed out, the next one, and its entry is the last one. -/
def TagsGrown (s u : State) : Prop :=
  ∃ kept : List Tag, kept.Sublist (robTags s) ∧
    ((robTags u = kept ∧ (u.nextTag = s.nextTag ∨ u.nextTag = s.nextTag + 1)) ∨
      (robTags u = kept ++ [s.nextTag] ∧ u.nextTag = s.nextTag + 1))

theorem TagsKept.refl (s : State) : TagsKept s s := ⟨.refl _, rfl⟩

theorem TagsKept.grown (h : TagsKept s u) : TagsGrown s u := ⟨_, h.1, .inl ⟨rfl, .inl h.2⟩⟩

theorem writeBack_rob (h : RobEntry) (s : State) : (writeBack h s).rob = s.rob := by
  rw [writeBack_eq]

theorem writeBack_nextTag (h : RobEntry) (s : State) : (writeBack h s).nextTag = s.nextTag := by
  rw [writeBack_eq]

theorem CommitResult.tagsKept (r : CommitResult o s u) : TagsKept s u := by
  cases r with
  | idle => exact .refl s
  | stop => exact .refl s
  | hold h younger hrob => exact ⟨by simp [robTags, hrob], rfl⟩
  | retire h younger mem hrob =>
    exact ⟨by simp [robTags, writeBack_rob, hrob], by simp [writeBack_nextTag]⟩
  | branch h younger pred hrob => exact ⟨by simp [robTags, hrob], rfl⟩
  | squash => exact ⟨List.nil_sublist _, rfl⟩

theorem commitStage_tagsKept (h : commitStage s = .next u) : TagsKept s u := by
  rcases commitStage_cases h with ⟨_, rfl⟩ | ⟨_, _, _, _, r, rfl⟩
  · exact .refl _
  · exact r.tagsKept

theorem BackendOnly.tagsKept {v : State} (h : BackendOnly u v) (k : TagsKept s u) : TagsKept s v :=
  ⟨by rw [h.tags]; exact k.1, h.nextTag.trans k.2⟩

theorem setPool_rob (p : Pool) (es : List RsEntry) (s : State) : (setPool p es s).rob = s.rob := by
  cases p <;> rfl

theorem setPool_nextTag (p : Pool) (es : List RsEntry) (s : State) : (setPool p es s).nextTag = s.nextTag := by
  cases p <;> rfl

theorem issueAs_tags (form : IssueForm) (s : State) :
    (robTags (issueAs form s) = robTags s ∧
      ((issueAs form s).nextTag = s.nextTag ∨ (issueAs form s).nextTag = s.nextTag + 1)) ∨
    (robTags (issueAs form s) = robTags s ++ [s.nextTag] ∧ (issueAs form s).nextTag = s.nextTag + 1) := by
  rcases issueAs_cases form s with ⟨_, he⟩ | ⟨_, _, _, _, _, he⟩ | ⟨_, _, _, _, _, _, _, he⟩
  · rw [he]
    exact .inl ⟨rfl, .inl rfl⟩
  · rw [he]
    exact .inl ⟨rfl, .inr rfl⟩
  · rw [he]
    exact .inr ⟨by simp [robTags, setPool_rob, newRobEntry], by simp [setPool_nextTag]⟩

theorem issueJalr_eq (form : IssueForm) (s : State) :
    ∃ w, issueJalr form s = { issueAs form s with jalrWait := w } := by
  unfold issueJalr
  dsimp only
  split
  · exact ⟨_, rfl⟩
  · exact ⟨_, rfl⟩

theorem issueStage_tagsGrown {v : State} (k : TagsKept s u) (h : issueStage u = .next v) : TagsGrown s v := by
  obtain ⟨hsub, hnext⟩ := k
  have grown (form : IssueForm) (w : State) (htags : robTags w = robTags (issueAs form { u with stage := .issue }))
      (hn : w.nextTag = (issueAs form { u with stage := .issue }).nextTag) : TagsGrown s w := by
    refine ⟨robTags u, hsub, ?_⟩
    rw [htags, hn, ← hnext]
    exact issueAs_tags form { u with stage := .issue }
  rcases issueStage_cases h with ⟨_, rfl⟩ | ⟨_, _, w, _, m, rfl⟩
  · exact TagsKept.grown ⟨hsub, hnext⟩
  · cases m with
    | issue form => exact grown form _ rfl rfl
    | jalr form =>
      obtain ⟨wait, he⟩ := issueJalr_eq form { u with stage := .issue }
      rw [he]
      exact grown form _ rfl rfl
    | refused => exact TagsKept.grown ⟨hsub, hnext⟩

theorem FrontendOnly.tagsGrown {v : State} (h : FrontendOnly u v) (g : TagsGrown s u) : TagsGrown s v := by
  unfold TagsGrown robTags at *
  rwa [h.rob, h.nextTag]

/-- A step hands out at most one tag, the next one (10_state.md R28; 40_cycle_issue_rename.md R142). -/
theorem step_tagsGrown {t : State} (h : step s = .next t) : TagsGrown s t := by
  have kept {v : State} (k : TagsKept s v) : Goes (TagsKept s) (TagsGrown s) v := ⟨fun _ => k, fun _ => k.grown⟩
  refine (step_induction (C := TagsKept s) (B := TagsKept s) (X := TagsKept s) (I := TagsGrown s) (F := TagsGrown s)
    (Q := TagsGrown s) (S := TagsGrown s) h
    (fun a ha => kept (commitStage_tagsKept ha))
    (fun a b _ ka hb => kept ((broadcastStage_backendOnly hb).tagsKept ka))
    (fun b c hr kb hc => kept ((executeStage_backendOnly hr hc).tagsKept kb))
    (fun c d _ kc hd => .of_both (issueStage_tagsGrown kc hd))
    (fun d e _ gd he => .of_both ((fetchStage_frontendOnly he).tagsGrown gd))
    (fun e _ ge => ge)).both

theorem tagsInOrder_iff (s : State) : TagsInOrder s ↔
    (robTags s).Pairwise (· < ·) ∧ (∀ t ∈ robTags s, 1 ≤ t ∧ t < s.nextTag) ∧ 1 ≤ s.nextTag := by
  simp [TagsInOrder, robTags, List.pairwise_map]

theorem TagsGrown.tagsInOrder (h : TagsInOrder s) (g : TagsGrown s u) : TagsInOrder u := by
  rw [tagsInOrder_iff] at *
  obtain ⟨hrise, hrange, hnext⟩ := h
  obtain ⟨kept, hsub, hcases⟩ := g
  have kept_rise := hrise.sublist hsub
  have kept_range : ∀ t ∈ kept, 1 ≤ t ∧ t < s.nextTag := fun t ht => hrange t (hsub.subset ht)
  have kept_range' (t : Tag) (ht : t ∈ kept) : 1 ≤ t ∧ t < s.nextTag + 1 :=
    ⟨(kept_range t ht).1, Nat.lt_succ_of_lt (kept_range t ht).2⟩
  rcases hcases with ⟨htags, hn | hn⟩ | ⟨htags, hn⟩ <;> rw [htags, hn]
  · exact ⟨kept_rise, kept_range, hnext⟩
  · exact ⟨kept_rise, kept_range', Nat.le_succ_of_le hnext⟩
  · refine ⟨?_, fun t ht => ?_, Nat.le_succ_of_le hnext⟩
    · simpa [List.pairwise_append, kept_rise] using fun t ht => (kept_range t ht).2
    · rcases List.mem_append.1 ht with ht | ht
      · exact kept_range' t ht
      · cases List.mem_singleton.1 ht
        exact ⟨hnext, Nat.lt_succ_self _⟩

/-- Settles O13: a step keeps entries of the reorder buffer in their order and adds at most one, behind them, with the
next tag. -/
theorem stepKeepsTagOrder : Obligations.StepKeepsTagOrder :=
  fun _ _ hs h => (step_tagsGrown h).tagsInOrder hs

/-- Settles O14: only the issue stage hands out a tag, and it comes once in a tick. -/
theorem tagsAreNeverReused : Obligations.TagsAreNeverReused := by
  intro s t h
  obtain ⟨kept, hsub, hcases⟩ := step_tagsGrown h
  have old {x : Tag} (hx : x ∈ kept) : ∃ g ∈ s.rob, g.tag = x := by
    simpa [robTags] using hsub.subset hx
  rcases hcases with ⟨htags, hn⟩ | ⟨htags, hn⟩
  · exact ⟨hn, fun h hh => .inl (old (htags ▸ List.mem_map_of_mem hh))⟩
  · refine ⟨.inr hn, fun h hh => ?_⟩
    have hmem : h.tag ∈ kept ++ [s.nextTag] := htags ▸ List.mem_map_of_mem hh
    rcases List.mem_append.1 hmem with hk | hk
    · exact .inl (old hk)
    · exact .inr ⟨List.mem_singleton.1 hk, hn⟩

/-- Settles O8: step asks the status first. -/
theorem stoppedRunTakesNoTick : Obligations.StoppedRunTakesNoTick :=
  fun _ _ hs h => hs (step_next h).1

/-! ### Register 0 -/

theorem rstReleased_zero (s : State) (r : Reg) (t : Tag) : (rstReleased s r t)[0] = s.rst[0] := by
  unfold rstReleased
  split
  · rename_i hr
    simp [toNat_ne_zero hr.1]
  · rfl

theorem rstClaimed_zero (s : State) (r : Reg) (t : Tag) : (rstClaimed s r t)[0] = s.rst[0] := by
  unfold rstClaimed
  split
  · rfl
  · rename_i hr
    simp [toNat_ne_zero hr]

theorem CommitResult.zeroRegister (r : CommitResult o s u) (h : ZeroRegister s) : ZeroRegister u := by
  obtain ⟨hval, hfree⟩ := h
  cases r with
  | idle => exact ⟨hval, hfree⟩
  | stop => exact ⟨hval, hfree⟩
  | hold => exact ⟨hval, hfree⟩
  | retire g younger mem =>
    rw [writeBack_eq]
    exact ⟨(regsWith_zero _ _ _).trans hval, (congrArg RstEntry.busy (rstReleased_zero _ _ _)).trans hfree⟩
  | branch => exact ⟨hval, hfree⟩
  | squash regs mem pc pred hzero => exact ⟨hzero.trans hval, by simp [clearAll, freeEntry]⟩

theorem issueAs_zeroRegister (form : IssueForm) (h : ZeroRegister s) : ZeroRegister (issueAs form s) := by
  obtain ⟨hval, hfree⟩ := h
  rcases issueAs_cases form s with ⟨_, he⟩ | ⟨_, _, _, _, _, he⟩ | ⟨_, _, _, _, _, _, _, he⟩
  · rw [he]
    exact ⟨hval, hfree⟩
  · rw [he]
    exact ⟨hval, hfree⟩
  · rw [he, claim_eq]
    refine ⟨?_, (congrArg RstEntry.busy (rstClaimed_zero _ _ _)).trans ?_⟩ <;> cases form.pool <;> assumption

theorem IssueMove.zeroRegister (m : IssueMove o s u) (h : ZeroRegister s) : ZeroRegister u := by
  cases m with
  | issue form => exact issueAs_zeroRegister form h
  | jalr form =>
    obtain ⟨_, he⟩ := issueJalr_eq form s
    rw [he]
    exact issueAs_zeroRegister form h
  | refused => exact h

theorem ZeroRegister.of_eq (h : ZeroRegister s) (hregs : u.regs = s.regs) (hrst : u.rst = s.rst) : ZeroRegister u := by
  unfold ZeroRegister
  rwa [hregs, hrst]

/-- Settles O12: only commit writes registers, only issue claims them, and both pass x0 by. -/
theorem stepKeepsZeroRegister : Obligations.StepKeepsZeroRegister := by
  intro s t hs h
  refine (step_induction (C := ZeroRegister) (B := ZeroRegister) (X := ZeroRegister) (I := ZeroRegister)
    (F := ZeroRegister) (Q := ZeroRegister) (S := ZeroRegister) h
    (fun a ha => .of_both ?commit) (fun a b _ za hb => .of_both ?broadcast) (fun b c hr zb hc => .of_both ?execute)
    (fun c d _ zc hd => .of_both ?issue) (fun d e _ zd he => .of_both ?fetch) (fun e _ ze => ze)).both
  case commit =>
    rcases commitStage_cases ha with ⟨_, rfl⟩ | ⟨_, _, _, _, r, rfl⟩
    · exact hs
    · exact (r.zeroRegister hs).of_eq rfl rfl
  case broadcast => exact za.of_eq (broadcastStage_backendOnly hb).regs (broadcastStage_backendOnly hb).rst
  case execute => exact zb.of_eq (executeStage_backendOnly hr hc).regs (executeStage_backendOnly hr hc).rst
  case issue =>
    rcases issueStage_cases hd with ⟨_, rfl⟩ | ⟨_, _, _, _, m, rfl⟩
    · exact zc
    · exact (m.zeroRegister zc).of_eq rfl rfl
  case fetch => exact zd.of_eq (fetchStage_frontendOnly he).regs (fetchStage_frontendOnly he).rst

end Sys2Proof.Machine
end

section
/-! PROOFS. The list operations by membership, and the reorder buffer as a function of the tag. -/

namespace Sys2Proof.Machine

/-! ### Lists: updateFirst and eraseP -/

section

variable {α β : Type}

theorem mem_updateFirst {p : α → Bool} {f : α → α} {l : List α} {y : α} (h : y ∈ updateFirst p f l) :
    y ∈ l ∨ ∃ x ∈ l, p x = true ∧ y = f x := by
  induction l with
  | nil => cases h
  | cons x rest ih =>
    unfold updateFirst at h
    split at h
    · rename_i hx
      rcases List.mem_cons.1 h with rfl | h
      · exact .inr ⟨x, List.mem_cons_self, hx, rfl⟩
      · exact .inl (List.mem_cons_of_mem _ h)
    · rcases List.mem_cons.1 h with rfl | h
      · exact .inl List.mem_cons_self
      · rcases ih h with h | ⟨z, hz, hp, he⟩
        · exact .inl (List.mem_cons_of_mem _ h)
        · exact .inr ⟨z, List.mem_cons_of_mem _ hz, hp, he⟩

/-- Where an element does not fit, updateFirst keeps it. -/
theorem mem_updateFirst_of_not {p : α → Bool} {f : α → α} {l : List α} {y : α} (h : y ∈ l) (hp : p y = false) :
    y ∈ updateFirst p f l := by
  induction l with
  | nil => cases h
  | cons x rest ih =>
    unfold updateFirst
    split
    · rename_i hx
      rcases List.mem_cons.1 h with rfl | h
      · simp [hp] at hx
      · exact List.mem_cons_of_mem _ h
    · rcases List.mem_cons.1 h with rfl | h
      · exact List.mem_cons_self
      · exact List.mem_cons_of_mem _ (ih h)

/-- The new element stands in the list, where one is replaced. -/
theorem mem_updateFirst_const {p : α → Bool} {l : List α} {x y : α} (h : x ∈ l) (hp : p x = true) :
    y ∈ updateFirst p (fun _ => y) l := by
  induction l with
  | nil => cases h
  | cons z rest ih =>
    unfold updateFirst
    split
    · exact List.mem_cons_self
    · rename_i hz
      rcases List.mem_cons.1 h with rfl | h
      · exact absurd hp hz
      · exact List.mem_cons_of_mem _ (ih h)

/-- A change that keeps a field of the elements that fit keeps the list of that field. -/
theorem updateFirst_map_of_mem {p : α → Bool} {f : α → α} (g : α → β) {l : List α}
    (h : ∀ x ∈ l, p x = true → g (f x) = g x) : (updateFirst p f l).map g = l.map g := by
  induction l with
  | nil => rfl
  | cons y rest ih =>
    unfold updateFirst
    split
    · rename_i hy
      simp [h y List.mem_cons_self hy]
    · simp [ih fun x hx => h x (List.mem_cons_of_mem _ hx)]

/-- What find? answers on an updated list whose keys stay. -/
theorem find_updateFirst {key : α → Tag} {f : α → α} (hf : ∀ x, key (f x) = key x) (t q : Tag) (l : List α) :
    (updateFirst (fun x => key x == t) f l).find? (fun x => key x == q) =
      if q = t then (l.find? fun x => key x == q).map f else l.find? fun x => key x == q := by
  induction l with
  | nil => simp [updateFirst]
  | cons x rest ih =>
    unfold updateFirst
    by_cases hx : key x = t
    · by_cases hq : q = t
      · simp [hx, hq, hf]
      · have : ¬ t = q := fun h => hq h.symm
        simp [hx, hq, hf, this]
    · by_cases hq : key x = q
      · simp [hq, show ¬ q = t from fun h => hx (hq.trans h)]
      · simp [hx, hq, ih]

theorem insertLb_perm (l : LbEntry) (es : List LbEntry) : (insertLb l es).Perm (l :: es) := by
  obtain ⟨lo, hi, rfl, _, _, he⟩ := insertLb_split l es
  rw [he]
  exact List.perm_middle

/-- Two elements of a list with the same key are one, where the keys are distinct. -/
theorem eq_of_nodup_map {f : α → β} {l : List α} (h : (l.map f).Nodup) :
    ∀ x ∈ l, ∀ y ∈ l, f x = f y → x = y := by
  induction l with
  | nil => exact fun x hx => absurd hx List.not_mem_nil
  | cons z rest ih =>
    obtain ⟨hz, hrest⟩ := List.nodup_cons.1 h
    intro x hx y hy he
    rcases List.mem_cons.1 hx with hxz | hxr
    · rcases List.mem_cons.1 hy with hyz | hyr
      · exact hxz.trans hyz.symm
      · exact absurd (hxz ▸ he ▸ List.mem_map_of_mem hyr) hz
    · rcases List.mem_cons.1 hy with hyz | hyr
      · exact absurd (hyz ▸ he ▸ List.mem_map_of_mem hxr) hz
      · exact ih hrest x hxr y hyr he

/-- eraseP takes out the element that find? answers. -/
theorem perm_eraseP_of_find {p : α → Bool} {l : List α} {x : α} (h : l.find? p = some x) :
    l.Perm (x :: l.eraseP p) := by
  obtain ⟨before, after, hs⟩ := find_some_split h
  rw [eraseP_split hs, hs.1]
  exact List.perm_middle

end

/-! ### The reorder buffer by tag -/

section

variable {s u : State} {q t : Tag} {g h : RobEntry}

theorem robAt_tag (e : robAt s t = some h) : h.tag = t := by
  simpa using List.find?_some e

theorem robAt_mem (e : robAt s t = some h) : h ∈ s.rob := List.mem_of_find?_eq_some e

theorem mem_robTags_iff : t ∈ robTags s ↔ ∃ h, robAt s t = some h := by
  constructor
  · intro ht
    obtain ⟨h, hm, rfl⟩ := List.mem_map.1 ht
    exact Option.isSome_iff_exists.1 (List.find?_isSome.2 ⟨h, hm, by simp⟩)
  · rintro ⟨h, e⟩
    exact List.mem_map.2 ⟨h, robAt_mem e, robAt_tag e⟩

theorem robAt_of_mem (ho : TagsInOrder s) (hm : h ∈ s.rob) : robAt s h.tag = some h := by
  obtain ⟨g, e⟩ := mem_robTags_iff.1 (List.mem_map_of_mem (f := fun x : RobEntry => x.tag) hm)
  have nodup : (s.rob.map fun x : RobEntry => x.tag).Nodup := (((tagsInOrder_iff s).1 ho).1).imp Nat.ne_of_lt
  rw [e, eq_of_nodup_map nodup g (robAt_mem e) h hm (robAt_tag e)]

theorem robAt_range (ho : TagsInOrder s) (e : robAt s t = some h) : t ≠ 0 ∧ t < s.nextTag := by
  obtain ⟨h1, h2⟩ := ((tagsInOrder_iff s).1 ho).2.1 t (mem_robTags_iff.2 ⟨h, e⟩)
  exact ⟨Nat.pos_iff_ne_zero.1 h1, h2⟩

theorem robAt_congr (hrob : u.rob = s.rob) (q : Tag) : robAt u q = robAt s q := by
  unfold robAt
  rw [hrob]

theorem robAt_updateRob {f : RobEntry → RobEntry} (hf : ∀ h, (f h).tag = h.tag) (t q : Tag) (s : State) :
    robAt (updateRob t f s) q = if q = t then (robAt s q).map f else robAt s q :=
  find_updateFirst hf t q s.rob

theorem robAt_deliver (m : CdbMsg) (q : Tag) (s : State) : robAt (deliver s m) q = (robAt s q).map (resolveRob m) := by
  have keys : ((fun h : RobEntry => h.tag == q) ∘ resolveRob m) = fun h => h.tag == q := by
    funext h
    exact congrArg (· == q) (resolveRob_tag m h)
  rw [robAt, robAt, deliver_rob, List.find?_map, keys]

theorem robAt_head {younger : List RobEntry} (hrob : s.rob = h :: younger) : robAt s h.tag = some h := by
  simp [robAt, hrob]

theorem robAt_tail {younger : List RobEntry} (hrob : s.rob = h :: younger) (hu : u.rob = younger) (hq : q ≠ h.tag) :
    robAt u q = robAt s q := by
  simp [robAt, hrob, hu, show (h.tag == q) = false by simpa using Ne.symm hq]

theorem robAt_tail_head {younger : List RobEntry} (ho : TagsInOrder s) (hrob : s.rob = h :: younger)
    (hu : u.rob = younger) : robAt u h.tag = none := by
  have hlt : ∀ x ∈ younger, h.tag < x.tag := by
    have := ho.1
    rw [hrob] at this
    exact (List.pairwise_cons.1 this).1
  refine find_none fun y hy => ?_
  simpa using Nat.ne_of_gt (hlt y (hu ▸ hy))

theorem robAt_append (ho : TagsInOrder s) (hu : u.rob = s.rob ++ [g]) (hg : g.tag = s.nextTag) :
    robAt u q = if q = s.nextTag then some g else robAt s q := by
  have split : robAt u q = (robAt s q).or (if g.tag == q then some g else none) := by
    rw [robAt, robAt, hu, List.find?_append, List.find?_singleton]
  rw [split, hg]
  by_cases hq : q = s.nextTag
  · subst hq
    cases e : robAt s s.nextTag with
    | none => simp
    | some h => exact absurd (robAt_range ho e).2 (Nat.lt_irrefl _)
  · simp [hq, show ¬ s.nextTag = q from fun h => hq h.symm]

end

end Sys2Proof.Machine
end

section
/-! PROOFS. The invariant of what is in flight (10_state.md R46), strengthened to one that every stage keeps, and the moves
that keep it whatever stage makes them. -/

namespace Sys2Proof.Machine

/-! ### The invariant -/

/-- Commit cannot retire this entry yet: it is not complete, and a store has no address. -/
def Unfinished (h : RobEntry) : Prop := h.complete = false ∧ ∀ w, opKind h.ins.op = .store w → h.addrReady = false

/-- The tag and the record of every entry of the pools and the load buffer. -/
def units (s : State) : List (Tag × Decoded) :=
  s.rsAlu.map (fun e => (e.dest, e.ins)) ++ s.rsMd.map (fun e => (e.dest, e.ins)) ++
    s.rsAgu.map (fun e => (e.dest, e.ins)) ++ s.lb.map (fun l => (l.owner, l.ins))

/-- Every unit of `u` is one of `s`, each as often: the others are gone. -/
def UnitsLeft (s u : State) : Prop := ∃ gone, (units s).Perm (gone ++ units u)

theorem UnitsLeft.of_perm {s u : State} (h : (units s).Perm (units u)) : UnitsLeft s u := ⟨[], h⟩

theorem UnitsLeft.of_eq {s u : State} (h : units u = units s) : UnitsLeft s u := .of_perm (.of_eq h.symm)

theorem UnitsLeft.of_cons {s u : State} {x : Tag × Decoded} (h : (units s).Perm (x :: units u)) : UnitsLeft s u :=
  ⟨[x], h⟩

theorem UnitsLeft.mem {s u : State} (h : UnitsLeft s u) {x : Tag × Decoded} (hx : x ∈ units u) : x ∈ units s := by
  obtain ⟨gone, hperm⟩ := h
  exact hperm.mem_iff.2 (List.mem_append_right _ hx)

theorem UnitsLeft.nodup {s u : State} (h : UnitsLeft s u) (hs : ((units s).map (·.1)).Nodup) :
    ((units u).map (·.1)).Nodup := by
  obtain ⟨gone, hperm⟩ := h
  have all : ((gone ++ units u).map (·.1)).Nodup := ((hperm.map (·.1)).nodup_iff).1 hs
  rw [List.map_append] at all
  exact (List.nodup_append.1 all).2.1

/-- A reservation station or a store's data slot holds the tag `q` (R30, R33). -/
def Awaited (s : State) (q : Tag) : Prop :=
  (∃ e, InPool s e ∧ (q = e.qj ∨ q = e.qk)) ∨ ∃ t h, robAt s t = some h ∧ q = h.storeQ

/-- A load-buffer entry of this tag is ready for the harvest (45_cdb.md R350). -/
def LoadDone (s : State) (q : Tag) : Prop := ∃ l ∈ s.lb, l.owner = q ∧ s.cfg.cacheLat ≤ l.progress

/-- What holds between any two operations of a tick: rising tags; every unit's entry is of one tag and belongs to an
unfinished entry; a claimed register belongs to an entry with that destination; stores and branches have no
destination; an AMO waits for no data, and has its value only once its load-buffer entry is done; an ALU entry is
evaluated only with its first operand. -/
structure InFlight (s : State) : Prop where
  order : TagsInOrder s
  oneUnit : ((units s).map (·.1)).Nodup
  owned : ∀ x ∈ units s, ∃ h, robAt s x.1 = some h ∧ h.ins = x.2 ∧ Unfinished h
  busy : ∀ r, (rstAt s r).busy = true → r ≠ 0 ∧ ∃ h, robAt s (rstAt s r).tag = some h ∧ h.dest = r
  storeDest : ∀ q h, robAt s q = some h → ∀ w, opKind h.ins.op = .store w → h.dest = 0
  branchDest : ∀ q h, robAt s q = some h → opKind h.ins.op = .branch → h.dest = 0
  amoData : ∀ q h, robAt s q = some h → opKind h.ins.op = .amo → h.storeQ = 0
  amoValue : ∀ q h, robAt s q = some h → opKind h.ins.op = .amo → h.valueReady = true →
    h.complete = true ∨ LoadDone s q
  aluReady : ∀ e ∈ s.rsAlu, e.progress ≠ 0 → e.qj = 0

/-- Every awaited tag has a producer with a destination, whose result is to come, or is among the messages `ms`
(R46 (2)). -/
def Announced (ms : List CdbMsg) (s : State) : Prop :=
  ∀ q, Awaited s q → q ≠ 0 →
    ∃ h, robAt s q = some h ∧ h.dest ≠ 0 ∧ (h.complete = true → ∃ m ∈ ms, m.tag = q)

/-- An AMO that has had its latency tick at commit is complete (46_commit.md R372). -/
def AmosHarvested (s : State) : Prop :=
  ∀ q h, robAt s q = some h → opKind h.ins.op = .amo → h.progress ≠ 0 → h.complete = true

/-- The same between commit and harvest: complete, or its value is ready. -/
def AmosReady (s : State) : Prop :=
  ∀ q h, robAt s q = some h → opKind h.ins.op = .amo → h.progress ≠ 0 → h.complete = true ∨ h.valueReady = true

/-- Where fetch waits for a JALR, the JALR is in its pool (44_branch_fetch.md R328). -/
def JalrPresent (s : State) : Prop := ∀ t, s.jalrWait = .waiting t → ∃ e ∈ s.rsAlu, e.dest = t

/-- The same at the start of a tick: it still waits for its base. -/
def JalrBlocked (s : State) : Prop := ∀ t, s.jalrWait = .waiting t → ∃ e ∈ s.rsAlu, e.dest = t ∧ e.qj ≠ 0

/-- The part of the state the invariant speaks about, besides the JALR stall. -/
def backEnd (s : State) : State :=
  { s with
    regs := Vector.replicate 32 0, pc := 0, mem := [], iq := [], jalrWait := .none, cycle := 0, pred := [],
    stage := .fetch }

theorem InFlight.congr {s u : State} (hs : InFlight s) (he : backEnd u = backEnd s) : InFlight u := by
  have hb : InFlight (backEnd s) := ⟨hs.1, hs.2, hs.3, hs.4, hs.5, hs.6, hs.7, hs.8, hs.9⟩
  rw [← he] at hb
  exact ⟨hb.1, hb.2, hb.3, hb.4, hb.5, hb.6, hb.7, hb.8, hb.9⟩

theorem Announced.congr {ms : List CdbMsg} {s u : State} (hs : Announced ms s) (he : backEnd u = backEnd s) :
    Announced ms u := by
  have hb : Announced ms (backEnd s) := hs
  rwa [← he] at hb

theorem AmosHarvested.congr {s u : State} (hs : AmosHarvested s) (he : backEnd u = backEnd s) : AmosHarvested u := by
  have hb : AmosHarvested (backEnd s) := hs
  rwa [← he] at hb

theorem JalrPresent.congr {s u : State} (hs : JalrPresent s) (hw : u.jalrWait = s.jalrWait) (ha : u.rsAlu = s.rsAlu) :
    JalrPresent u := by
  unfold JalrPresent
  rwa [hw, ha]

theorem JalrBlocked.congr {s u : State} (hs : JalrBlocked s) (hw : u.jalrWait = s.jalrWait) (ha : u.rsAlu = s.rsAlu) :
    JalrBlocked u := by
  unfold JalrBlocked
  rwa [hw, ha]

/-! ### Entries that change in place -/

/-- What a reorder-buffer entry keeps while it is in flight: its record and its destination; what it awaits can only be
resolved, and it stays ready and complete. -/
structure Evolves (h g : RobEntry) : Prop where
  ins : g.ins = h.ins
  dest : g.dest = h.dest
  storeQ : g.storeQ = h.storeQ ∨ g.storeQ = 0
  complete : h.complete = true → g.complete = true
  valueReady : h.valueReady = true → g.valueReady = true

theorem Evolves.refl (h : RobEntry) : Evolves h h := ⟨rfl, rfl, .inl rfl, id, id⟩

/-- The reorder buffer has the same tags, and each of its entries has evolved. -/
structure RobEvolves (s u : State) : Prop where
  tags : robTags u = robTags s
  nextTag : u.nextTag = s.nextTag
  entry : ∀ q g, robAt u q = some g → ∃ h, robAt s q = some h ∧ Evolves h g

section

variable {s u : State}

theorem RobEvolves.forward (he : RobEvolves s u) {q : Tag} {h : RobEntry} (e : robAt s q = some h) :
    ∃ g, robAt u q = some g ∧ Evolves h g := by
  obtain ⟨g, eg⟩ := mem_robTags_iff.1 (he.tags ▸ mem_robTags_iff.2 ⟨h, e⟩)
  obtain ⟨h', e', hg⟩ := he.entry q g eg
  cases e.symm.trans e'
  exact ⟨g, eg, hg⟩

theorem RobEvolves.of_eq (hrob : u.rob = s.rob) (hn : u.nextTag = s.nextTag) : RobEvolves s u :=
  ⟨congrArg (List.map fun h : RobEntry => h.tag) hrob, hn, fun q g e => ⟨g, (robAt_congr hrob q).symm.trans e, .refl g⟩⟩

theorem RobEvolves.updateRob {t : Tag} {f : RobEntry → RobEntry} (htag : ∀ h, (f h).tag = h.tag)
    (hf : ∀ h, Evolves h (f h)) : RobEvolves s (updateRob t f s) := by
  refine ⟨(BackendOnly.updateRob s t htag).tags, rfl, fun q g e => ?_⟩
  rw [robAt_updateRob htag] at e
  split at e
  · obtain ⟨h, eh, rfl⟩ := Option.map_eq_some_iff.1 e
    exact ⟨h, eh, hf h⟩
  · exact ⟨g, e, .refl g⟩

theorem rstAt_congr (hrst : u.rst = s.rst) (r : Reg) : rstAt u r = rstAt s r := by
  simp only [rstAt, hrst]

/-- The invariant after a move that changes entries in place: what is left to show is about units, AMOs and ALU
entries. -/
theorem InFlight.evolve (hs : InFlight s) (he : RobEvolves s u) (hrst : u.rst = s.rst)
    (hunits : UnitsLeft s u)
    (hunfinished : ∀ x ∈ units u, ∀ h g, robAt s x.1 = some h → robAt u x.1 = some g → Unfinished h → Unfinished g)
    (hamo : ∀ q h g, robAt s q = some h → robAt u q = some g → Evolves h g → opKind g.ins.op = .amo →
      g.valueReady = true → g.complete = true ∨ LoadDone u q)
    (halu : ∀ e ∈ u.rsAlu, e.progress ≠ 0 → e.qj = 0) : InFlight u where
  order := TagsGrown.tagsInOrder hs.order (TagsKept.grown ⟨he.tags ▸ .refl _, he.nextTag⟩)
  oneUnit := hunits.nodup hs.oneUnit
  owned := by
    intro x hx
    obtain ⟨h, e, hins, hunf⟩ := hs.owned x (hunits.mem hx)
    obtain ⟨g, eg, hg⟩ := he.forward e
    exact ⟨g, eg, hg.ins.trans hins, hunfinished x hx h g e eg hunf⟩
  busy := by
    intro r hr
    rw [rstAt_congr hrst] at *
    obtain ⟨h0, h, e, hd⟩ := hs.busy r hr
    obtain ⟨g, eg, hg⟩ := he.forward e
    exact ⟨h0, g, eg, hg.dest.trans hd⟩
  storeDest := by
    intro q g eg w hk
    obtain ⟨h, e, hg⟩ := he.entry q g eg
    exact hg.dest.trans (hs.storeDest q h e w (hg.ins ▸ hk))
  branchDest := by
    intro q g eg hk
    obtain ⟨h, e, hg⟩ := he.entry q g eg
    exact hg.dest.trans (hs.branchDest q h e (hg.ins ▸ hk))
  amoData := by
    intro q g eg hk
    obtain ⟨h, e, hg⟩ := he.entry q g eg
    exact hg.storeQ.elim (fun hq => hq.trans (hs.amoData q h e (hg.ins ▸ hk))) id
  amoValue := by
    intro q g eg hk hv
    obtain ⟨h, e, hg⟩ := he.entry q g eg
    exact hamo q h g e eg hg hk hv
  aluReady := halu

/-- The invariant after a move of the units alone. -/
theorem InFlight.sameRob (hs : InFlight s) (hrob : u.rob = s.rob) (hn : u.nextTag = s.nextTag) (hrst : u.rst = s.rst)
    (hunits : UnitsLeft s u) (hload : ∀ q, LoadDone s q → LoadDone u q)
    (halu : ∀ e ∈ u.rsAlu, e.progress ≠ 0 → e.qj = 0) : InFlight u := by
  refine hs.evolve (.of_eq hrob hn) hrst hunits (fun x _ h g e eg hunf => ?_) (fun q h g e eg hg hk hv => ?_) halu
  · cases e.symm.trans ((robAt_congr hrob _).symm.trans eg)
    exact hunf
  · cases e.symm.trans ((robAt_congr hrob _).symm.trans eg)
    exact (hs.amoValue q h e hk hv).imp_right (hload q)

/-- The invariant after a change of one entry of the reorder buffer. -/
theorem InFlight.updateRob (hs : InFlight s) {t : Tag} {f : RobEntry → RobEntry} (htag : ∀ h, (f h).tag = h.tag)
    (hf : ∀ h, Evolves h (f h))
    (hunfinished : t ∈ (units s).map (·.1) → ∀ h, robAt s t = some h → Unfinished h → Unfinished (f h))
    (hamo : ∀ h, robAt s t = some h → opKind h.ins.op = .amo → (f h).valueReady = true →
      h.valueReady = true ∨ (f h).complete = true ∨ LoadDone s t) : InFlight (updateRob t f s) := by
  refine hs.evolve (.updateRob htag hf) rfl (.of_eq rfl) (fun x hx h g e eg hunf => ?_)
    (fun q h g e eg hg hk hv => ?_) hs.aluReady
  · rw [robAt_updateRob htag, e] at eg
    split at eg
    · rename_i hq
      cases eg
      subst hq
      exact hunfinished (List.mem_map_of_mem hx) h e hunf
    · cases eg
      exact hunf
  · have old (hvh : h.valueReady = true) : g.complete = true ∨ LoadDone s q :=
      (hs.amoValue q h e (hg.ins ▸ hk) hvh).imp_left hg.complete
    rw [robAt_updateRob htag, e] at eg
    split at eg
    · rename_i hq
      cases eg
      subst hq
      rcases hamo h e ((hf h).ins ▸ hk) hv with hvh | hdone
      · exact old hvh
      · exact hdone
    · cases eg
      exact old hv

theorem Announced.evolve {ms ms' : List CdbMsg} (hs : Announced ms s) (he : RobEvolves s u)
    (hpool : ∀ e, InPool u e → ∀ q, q ≠ 0 → (q = e.qj ∨ q = e.qk) → Awaited s q)
    (hms : ∀ q h g, Awaited u q → robAt s q = some h → robAt u q = some g → g.dest ≠ 0 →
      (h.complete = true → ∃ m ∈ ms, m.tag = q) → g.complete = true → ∃ m ∈ ms', m.tag = q) : Announced ms' u := by
  intro q hq h0
  have old : Awaited s q := by
    rcases hq with ⟨e, hp, hqe⟩ | ⟨t, g, eg, rfl⟩
    · exact hpool e hp q h0 hqe
    · obtain ⟨h, e, hg⟩ := he.entry t g eg
      exact .inr ⟨t, h, e, hg.storeQ.resolve_right h0⟩
  obtain ⟨h, e, hd, hc⟩ := hs q old h0
  obtain ⟨g, eg, hg⟩ := he.forward e
  exact ⟨g, eg, hg.dest ▸ hd, hms q h g hq e eg (hg.dest ▸ hd) hc⟩

theorem Announced.sameRob {ms : List CdbMsg} (hs : Announced ms s) (hrob : u.rob = s.rob) (hn : u.nextTag = s.nextTag)
    (hpool : ∀ e, InPool u e → ∀ q, q ≠ 0 → (q = e.qj ∨ q = e.qk) → Awaited s q) : Announced ms u := by
  refine hs.evolve (.of_eq hrob hn) hpool fun q h g _ e eg _ hc => ?_
  cases e.symm.trans ((robAt_congr hrob _).symm.trans eg)
  exact hc

theorem Announced.updateRob {ms : List CdbMsg} (hs : Announced ms s) {t : Tag} {f : RobEntry → RobEntry}
    (htag : ∀ h, (f h).tag = h.tag) (hf : ∀ h, Evolves h (f h)) (hcomplete : ∀ h, (f h).complete = h.complete) :
    Announced ms (updateRob t f s) := by
  refine hs.evolve (.updateRob htag hf) (fun e hp q _ hq => .inl ⟨e, hp, hq⟩) fun q h g _ e eg _ hc hg => hc ?_
  rw [robAt_updateRob htag, e] at eg
  split at eg
  · cases eg
    exact (hcomplete h).symm.trans hg
  · cases eg
    exact hg

theorem AmosHarvested.evolve (hs : AmosHarvested s) (he : RobEvolves s u)
    (hp : ∀ q h g, robAt s q = some h → robAt u q = some g → g.progress = h.progress) : AmosHarvested u := by
  intro q g eg hk h0
  obtain ⟨h, e, hg⟩ := he.entry q g eg
  exact hg.complete (hs q h e (hg.ins ▸ hk) (hp q h g e eg ▸ h0))

theorem AmosReady.evolve (hs : AmosReady s) (he : RobEvolves s u)
    (hp : ∀ q h g, robAt s q = some h → robAt u q = some g → g.progress = h.progress) : AmosReady u := by
  intro q g eg hk h0
  obtain ⟨h, e, hg⟩ := he.entry q g eg
  exact (hs q h e (hg.ins ▸ hk) (hp q h g e eg ▸ h0)).imp hg.complete hg.valueReady

/-- A field that a change of one entry keeps is the same for every tag. -/
theorem updateRob_keeps {β : Type} {k : RobEntry → β} {t : Tag} {f : RobEntry → RobEntry}
    (htag : ∀ h, (f h).tag = h.tag) (hf : ∀ h, k (f h) = k h) :
    ∀ q h g, robAt s q = some h → robAt (updateRob t f s) q = some g → k g = k h := by
  intro q h g e eg
  rw [robAt_updateRob htag, e] at eg
  split at eg
  · cases eg
    exact hf h
  · cases eg
    rfl

/-! ### Units by tag -/

theorem units_tags (s : State) : (units s).map (·.1) =
    s.rsAlu.map (·.dest) ++ s.rsMd.map (·.dest) ++ s.rsAgu.map (·.dest) ++ s.lb.map (·.owner) := by
  simp [units, Function.comp_def]

theorem mem_units {x : Tag × Decoded} : x ∈ units s ↔
    (∃ e, InPool s e ∧ x = (e.dest, e.ins)) ∨ ∃ l ∈ s.lb, x = (l.owner, l.ins) := by
  simp only [units, List.mem_append, List.mem_map, InPool]
  constructor
  · rintro (((⟨e, he, rfl⟩ | ⟨e, he, rfl⟩) | ⟨e, he, rfl⟩) | ⟨l, hl, rfl⟩)
    · exact .inl ⟨e, .inl he, rfl⟩
    · exact .inl ⟨e, .inr (.inl he), rfl⟩
    · exact .inl ⟨e, .inr (.inr he), rfl⟩
    · exact .inr ⟨l, hl, rfl⟩
  · rintro (⟨e, he | he | he, rfl⟩ | ⟨l, hl, rfl⟩)
    · exact .inl (.inl (.inl ⟨e, he, rfl⟩))
    · exact .inl (.inl (.inr ⟨e, he, rfl⟩))
    · exact .inl (.inr ⟨e, he, rfl⟩)
    · exact .inr ⟨l, hl, rfl⟩

theorem InFlight.pool_owner (hs : InFlight s) {e : RsEntry} (he : InPool s e) :
    ∃ h, robAt s e.dest = some h ∧ h.ins = e.ins ∧ Unfinished h :=
  hs.owned (e.dest, e.ins) (mem_units.2 (.inl ⟨e, he, rfl⟩))

theorem InFlight.lb_owner (hs : InFlight s) {l : LbEntry} (hl : l ∈ s.lb) :
    ∃ h, robAt s l.owner = some h ∧ h.ins = l.ins ∧ Unfinished h :=
  hs.owned (l.owner, l.ins) (mem_units.2 (.inr ⟨l, hl, rfl⟩))

theorem InFlight.md_inj (hs : InFlight s) {e x : RsEntry} (he : e ∈ s.rsMd) (hx : x ∈ s.rsMd) (h : x.dest = e.dest) :
    x = e := by
  have nodup := hs.oneUnit
  rw [units_tags] at nodup
  obtain ⟨pools, _, _⟩ := List.nodup_append.1 nodup
  obtain ⟨aluMd, _, _⟩ := List.nodup_append.1 pools
  exact eq_of_nodup_map (List.nodup_append.1 aluMd).2.1 x hx e he h

theorem InFlight.lb_inj (hs : InFlight s) {l x : LbEntry} (hl : l ∈ s.lb) (hx : x ∈ s.lb) (h : x.owner = l.owner) :
    x = l := by
  have nodup := hs.oneUnit
  rw [units_tags] at nodup
  exact eq_of_nodup_map (List.nodup_append.1 nodup).2.1 x hx l hl h

end

end Sys2Proof.Machine
end

section
/-! PROOFS. The broadcast stage keeps the invariant. -/

namespace Sys2Proof.Machine

/-! ### The harvest -/

section

variable {α : Type}

/-- The first element that a filter keeps is the one that eraseP takes out, and the others stay kept. -/
theorem filter_eraseP_head {p : α → Bool} {key : α → Tag} {l xs : List α} {x : α} (h : l.filter p = x :: xs) :
    l.find? (fun y => key y == key x && p y) = some x ∧
      (l.eraseP fun y => key y == key x && p y).filter p = xs := by
  obtain ⟨before, after, rfl, hb, hx, rfl⟩ := List.filter_eq_cons_iff.1 h
  have split : FirstWhere (fun y => (key y == key x && p y) = true) (before ++ x :: after) before x after :=
    ⟨rfl, by simp [hx], fun y hy => by simp [hb y hy]⟩
  refine ⟨find_split split, ?_⟩
  rw [eraseP_split split, List.filter_append, List.filter_eq_nil_iff.2 hb, List.nil_append]

theorem perm_pick_left {x : α} {l l' : List α} (h : l.Perm (x :: l')) (r : List α) : (l ++ r).Perm (x :: (l' ++ r)) :=
  h.append_right r

theorem perm_pick_right {x : α} {r r' : List α} (h : r.Perm (x :: r')) (l : List α) : (l ++ r).Perm (x :: (l ++ r')) :=
  (h.append_left l).trans List.perm_middle

end

/-- What the removal of the first harvested element does: its unit leaves, the others stay, and the harvest of what is
left is the rest of the harvest (45_cdb.md R351, R362). -/
structure Harvests (x : Harvested) (xs : List Harvested) (s u : State) : Prop where
  rest : harvestSet u = xs
  unit : ∃ d, (units s).Perm ((x.tag, d) :: units u)
  pool : ∀ e, InPool u e → InPool s e
  alu : ∀ e ∈ u.rsAlu, e ∈ s.rsAlu
  waiting : ∀ e ∈ s.rsAlu, aluDone e = false → e ∈ u.rsAlu
  load : ∀ q, q ≠ x.tag → LoadDone s q → LoadDone u q

theorem removeHarvested_harvests {x : Harvested} {xs : List Harvested} {s : State} (h : harvestSet s = x :: xs) :
    Harvests x xs s (removeHarvested x s) := by
  have noLoad (q : Tag) (_ : q ≠ x.tag) (hl : LoadDone s q) : LoadDone s q := hl
  unfold harvestSet at h
  rcases List.append_eq_cons_iff.1 h with ⟨h3, hlb⟩ | ⟨_, h3, hrest⟩
  · obtain ⟨h2, hagu⟩ := List.append_eq_nil_iff.1 h3
    obtain ⟨halu, hmd⟩ := List.append_eq_nil_iff.1 h2
    obtain ⟨l, ls, hl, rfl, rfl⟩ := List.map_eq_cons_iff.1 hlb
    obtain ⟨hfind, hfilter⟩ := filter_eraseP_head (key := fun m : LbEntry => m.owner) hl
    refine ⟨?_, ⟨l.ins, perm_pick_right ((perm_eraseP_of_find hfind).map _) _⟩, fun _ he => he, fun _ he => he,
      fun _ he _ => he, ?_⟩
    · simp [removeHarvested, harvestSet, halu, hmd, hagu, hfilter]
    · rintro q hq ⟨m, hm, rfl, hp⟩
      refine ⟨m, (List.mem_eraseP_of_neg ?_).2 hm, rfl, hp⟩
      simp [hq]
  rcases List.append_eq_cons_iff.1 h3 with ⟨h2, hagu⟩ | ⟨_, h2, rfl⟩
  · obtain ⟨halu, hmd⟩ := List.append_eq_nil_iff.1 h2
    obtain ⟨e, es, he, rfl, rfl⟩ := List.map_eq_cons_iff.1 hagu
    obtain ⟨hfind, hfilter⟩ := filter_eraseP_head (key := fun m : RsEntry => m.dest) he
    refine ⟨?_, ⟨e.ins, perm_pick_left (perm_pick_right ((perm_eraseP_of_find hfind).map _) _) _⟩,
      fun _ => Or.imp_right (Or.imp_right List.mem_of_mem_eraseP), fun _ he => he, fun _ he _ => he, noLoad⟩
    simp [removeHarvested, harvestSet, halu, hmd, hfilter, hrest]
  rcases List.append_eq_cons_iff.1 h2 with ⟨halu, hmd⟩ | ⟨_, halu, rfl⟩
  · obtain ⟨e, es, he, rfl, rfl⟩ := List.map_eq_cons_iff.1 hmd
    obtain ⟨hfind, hfilter⟩ := filter_eraseP_head (key := fun m : RsEntry => m.dest) he
    refine ⟨?_, ⟨e.ins, perm_pick_left (perm_pick_left (perm_pick_right ((perm_eraseP_of_find hfind).map _) _) _) _⟩,
      fun _ => Or.imp_right (Or.imp_left List.mem_of_mem_eraseP), fun _ he => he, fun _ he _ => he, noLoad⟩
    simp [removeHarvested, harvestSet, halu, hfilter, hrest]
  · obtain ⟨e, es, he, rfl, rfl⟩ := List.map_eq_cons_iff.1 halu
    obtain ⟨hfind, hfilter⟩ := filter_eraseP_head (key := fun m : RsEntry => m.dest) he
    refine ⟨?_, ⟨e.ins, perm_pick_left (perm_pick_left (perm_pick_left ((perm_eraseP_of_find hfind).map _) _) _) _⟩,
      fun _ => Or.imp_left List.mem_of_mem_eraseP, fun _ => List.mem_of_mem_eraseP, ?_, noLoad⟩
    · simp [removeHarvested, harvestSet, hfilter, hrest]
    · intro m hm hdone
      exact (List.mem_eraseP_of_neg (by simp [hdone])).2 hm

theorem markEntry_evolves (v : Word) (h : RobEntry) : Evolves h (markEntry v h) := by
  unfold markEntry
  split
  · exact ⟨rfl, rfl, .inl rfl, id, fun _ => rfl⟩
  · exact ⟨rfl, rfl, .inl rfl, fun _ => rfl, id⟩

theorem markEntry_progress (v : Word) (h : RobEntry) : (markEntry v h).progress = h.progress := by
  unfold markEntry
  split <;> rfl

/-- Everything but an ECALL is complete once it is marked. -/
theorem markEntry_complete {v : Word} {h : RobEntry} (hk : isSyscall h.ins.op = false) :
    (markEntry v h).complete = true := by
  simp [markEntry, hk]

theorem markEntry_complete_syscall {v : Word} {h : RobEntry} (hk : isSyscall h.ins.op = true) :
    (markEntry v h).complete = h.complete := by
  simp [markEntry, hk]

theorem messageOf_mem {h : RobEntry} {x : Harvested} (hd : h.dest ≠ 0) (hk : isSyscall h.ins.op = false) :
    ⟨x.tag, x.value⟩ ∈ messageOf h x := by
  rw [messageOf, if_pos ⟨hd, hk⟩]
  exact List.mem_singleton_self _

theorem messageOf_tag {h : RobEntry} {x : Harvested} {m : CdbMsg} (hm : m ∈ messageOf h x) : m.tag = x.tag := by
  unfold messageOf at hm
  split at hm
  · rw [List.mem_singleton.1 hm]
  · cases hm

theorem removeHarvested_rob (x : Harvested) (s : State) : (removeHarvested x s).rob = s.rob := by
  unfold removeHarvested
  split <;> rfl

/-- One turn of the harvest loop: the entry leaves its pool and its owner is marked. -/
def harvestOne (x : Harvested) (s : State) : State := updateRob x.tag (markEntry x.value) (removeHarvested x s)

theorem harvestOne_robAt (x : Harvested) (s : State) (q : Tag) :
    robAt (harvestOne x s) q = if q = x.tag then (robAt s q).map (markEntry x.value) else robAt s q := by
  rw [harvestOne, robAt_updateRob (markEntry_tag x.value), robAt_congr (removeHarvested_rob x s)]

theorem harvestOne_evolves (x : Harvested) (s : State) : RobEvolves s (harvestOne x s) := by
  have removed := removeHarvested_backendOnly x s
  have marked := BackendOnly.updateRob (removeHarvested x s) x.tag (markEntry_tag x.value)
  refine ⟨marked.tags.trans removed.tags, removed.nextTag, fun q g eg => ?_⟩
  rw [harvestOne_robAt] at eg
  split at eg
  · obtain ⟨h, e, rfl⟩ := Option.map_eq_some_iff.1 eg
    exact ⟨h, e, markEntry_evolves x.value h⟩
  · exact ⟨g, eg, .refl g⟩

section

variable {x : Harvested} {xs : List Harvested} {s : State}

/-- The owner of a harvested element is there: no stale tag in the harvest. -/
theorem InFlight.harvested_owner (hs : InFlight s) (hx : harvestSet s = x :: xs) :
    ∃ h, robAt s x.tag = some h := by
  obtain ⟨d, hperm⟩ := (removeHarvested_harvests hx).unit
  obtain ⟨h, e, _⟩ := hs.owned _ (hperm.mem_iff.2 List.mem_cons_self)
  exact ⟨h, e⟩

theorem InFlight.after_harvestOne (hs : InFlight s) (hx : harvestSet s = x :: xs) : InFlight (harvestOne x s) := by
  have r := removeHarvested_harvests hx
  obtain ⟨d, hperm⟩ := r.unit
  have left : ∀ y ∈ units (removeHarvested x s), y.1 ≠ x.tag := by
    have nodup := ((hperm.map (·.1)).nodup_iff).1 hs.oneUnit
    intro y hy he
    exact (List.nodup_cons.1 nodup).1 (List.mem_map.2 ⟨y, hy, he⟩)
  refine hs.evolve (harvestOne_evolves x s) (removeHarvested_backendOnly x s).rst ?_ ?_ ?_
    fun e he => hs.aluReady e (r.alu e he)
  · exact .of_cons hperm
  · intro y hy h g e eg hunf
    rw [harvestOne_robAt, if_neg (left y hy), e] at eg
    cases eg
    exact hunf
  · intro q h g e eg hg hk hv
    rw [harvestOne_robAt, e] at eg
    split at eg
    · cases eg
      exact .inl (markEntry_complete (by simp [isSyscall, ← hg.ins, hk]))
    · rename_i hq
      cases eg
      exact (hs.amoValue q h e hk hv).imp_right (r.load q hq)

/-- The invariant within the harvest, `ms` being the messages so far. -/
structure Harvesting (ms : List CdbMsg) (s : State) : Prop where
  inFlight : InFlight s
  announced : Announced ms s
  amos : AmosReady s
  jalr : JalrBlocked s
  tags : ∀ m ∈ ms, m.tag ≠ 0

theorem Announced.after_harvestOne {ms : List CdbMsg} {h : RobEntry} (hs : Announced ms s) (hx : harvestSet s = x :: xs)
    (e : robAt s x.tag = some h) : Announced (ms ++ messageOf h x) (harvestOne x s) := by
  have r := removeHarvested_harvests hx
  refine hs.evolve (harvestOne_evolves x s) (fun y hy q _ hq => .inl ⟨y, r.pool y hy, hq⟩) ?_
  intro q g g' _ eg eg' hd hc hcomplete
  have earlier (hg : g.complete = true) : ∃ m ∈ ms ++ messageOf h x, m.tag = q := by
    obtain ⟨m, hm, ht⟩ := hc hg
    exact ⟨m, List.mem_append_left _ hm, ht⟩
  rw [harvestOne_robAt, eg] at eg'
  split at eg'
  · rename_i hq
    cases eg'
    subst hq
    cases e.symm.trans eg
    cases hk : isSyscall h.ins.op with
    | true => exact earlier ((markEntry_complete_syscall hk).symm.trans hcomplete)
    | false =>
      have hdest : h.dest ≠ 0 := (markEntry_evolves x.value h).dest ▸ hd
      exact ⟨_, List.mem_append_right _ (messageOf_mem hdest hk), rfl⟩
  · cases eg'
    exact earlier hcomplete

theorem Harvesting.after_harvestOne {ms : List CdbMsg} {h : RobEntry} (hs : Harvesting ms s)
    (hx : harvestSet s = x :: xs) (e : robAt s x.tag = some h) : Harvesting (ms ++ messageOf h x) (harvestOne x s) where
  inFlight := hs.inFlight.after_harvestOne hx
  announced := hs.announced.after_harvestOne hx e
  amos := by
    refine hs.amos.evolve (harvestOne_evolves x s) fun q h g e eg => ?_
    rw [← robAt_congr (removeHarvested_rob x s)] at e
    exact updateRob_keeps (markEntry_tag x.value) (markEntry_progress x.value) q h g e eg
  jalr := by
    intro t ht
    obtain ⟨y, hy, hdest, hq⟩ := hs.jalr t ((removeHarvested_backendOnly x s).jalrWait.symm.trans ht)
    have idle : y.progress = 0 := Decidable.byContradiction fun hp => hq (hs.inFlight.aluReady y hy hp)
    exact ⟨y, (removeHarvested_harvests hx).waiting y hy (by simp [aluDone, idle]), hdest, hq⟩
  tags := by
    intro m hm
    rcases List.mem_append.1 hm with hm | hm
    · exact hs.tags m hm
    · exact messageOf_tag hm ▸ (robAt_range hs.inFlight.order e).1

end

/-- The whole harvest: it keeps the invariant, raises nothing and leaves nothing harvestable. -/
theorem Harvesting.after_harvestAll (xs : List Harvested) :
    ∀ {ms : List CdbMsg} {s : State}, Harvesting ms s → harvestSet s = xs →
      Harvesting (harvestAll xs s ms).2 (harvestAll xs s ms).1 ∧ harvestSet (harvestAll xs s ms).1 = [] ∧
        (harvestAll xs s ms).1.status = s.status := by
  induction xs with
  | nil => exact fun hs hx => ⟨hs, hx, rfl⟩
  | cons x xs ih =>
    intro ms s hs hx
    obtain ⟨h, e⟩ := hs.inFlight.harvested_owner hx
    have hstatus : (harvestOne x s).status = s.status := by
      simp only [harvestOne, removeHarvested, updateRob_status]
      split <;> rfl
    have turn : harvestAll (x :: xs) s ms = harvestAll xs (harvestOne x s) (ms ++ messageOf h x) := by
      rw [harvestAll]
      simp only [robAt_congr (removeHarvested_rob x s), e]
      rfl
    rw [turn, ← hstatus]
    exact ih (hs.after_harvestOne hx e) (removeHarvested_harvests hx).rest

/-! ### The messages -/

/-- The invariant between harvest and execute, `ms` being the messages not yet delivered. -/
structure Delivering (ms : List CdbMsg) (s : State) : Prop where
  inFlight : InFlight s
  announced : Announced ms s
  amos : AmosHarvested s
  jalr : JalrPresent s
  tags : ∀ m ∈ ms, m.tag ≠ 0

/-- Nothing harvestable is left in the load buffer, so an AMO whose value is ready is complete. -/
theorem Harvesting.delivering {ms : List CdbMsg} {s : State} (hs : Harvesting ms s) (hnone : harvestSet s = []) :
    Delivering ms s where
  inFlight := hs.inFlight
  announced := hs.announced
  amos := by
    intro q h e hk hp
    rcases hs.amos q h e hk hp with hc | hv
    · exact hc
    · refine (hs.inFlight.amoValue q h e hk hv).resolve_right ?_
      rintro ⟨l, hl, _, hdone⟩
      have hlb : s.lb.filter (lbDone s.cfg) = [] := by
        simpa using (List.append_eq_nil_iff.1 hnone).2
      exact List.filter_eq_nil_iff.1 hlb l hl (by simp [lbDone, hdone])
  jalr := by
    intro t ht
    obtain ⟨e, he, hd, _⟩ := hs.jalr t ht
    exact ⟨e, he, hd⟩
  tags := hs.tags

theorem resolveRob_evolves (m : CdbMsg) (h : RobEntry) : Evolves h (resolveRob m h) := by
  unfold resolveRob
  split
  · exact ⟨rfl, rfl, .inr rfl, id, fun _ => rfl⟩
  · exact .refl h

theorem resolveRob_unfinished {m : CdbMsg} {h : RobEntry} (hu : Unfinished h) : Unfinished (resolveRob m h) := by
  unfold resolveRob
  split
  · exact hu
  · exact hu

theorem resolveRob_complete (m : CdbMsg) (h : RobEntry) : (resolveRob m h).complete = h.complete := by
  unfold resolveRob
  split <;> rfl

theorem resolveRob_progress (m : CdbMsg) (h : RobEntry) : (resolveRob m h).progress = h.progress := by
  unfold resolveRob
  split <;> rfl

/-- No slot of an entry awaits a message's tag once it has been delivered, and none awaits a new one. -/
theorem resolveRob_storeQ {m : CdbMsg} {h : RobEntry} (hq : (resolveRob m h).storeQ ≠ 0) :
    (resolveRob m h).storeQ = h.storeQ ∧ (resolveRob m h).storeQ ≠ m.tag := by
  unfold resolveRob at *
  split at hq
  · exact absurd rfl hq
  · rename_i hne
    rw [if_neg hne]
    exact ⟨rfl, hne⟩

theorem resolveRs_frame (m : CdbMsg) (e : RsEntry) : (resolveRs m e).dest = e.dest ∧ (resolveRs m e).ins = e.ins ∧
    (resolveRs m e).progress = e.progress := by
  unfold resolveRs
  dsimp only
  split <;> split <;> exact ⟨rfl, rfl, rfl⟩

theorem resolveRs_slots (m : CdbMsg) (e : RsEntry) :
    (resolveRs m e).qj = (if e.qj = m.tag then 0 else e.qj) ∧
      (resolveRs m e).qk = (if e.qk = m.tag then 0 else e.qk) := by
  unfold resolveRs
  dsimp only
  split <;> split <;> simp_all

theorem resolveRs_awaits {m : CdbMsg} {e : RsEntry} {q : Tag} (h0 : q ≠ 0)
    (hq : q = (resolveRs m e).qj ∨ q = (resolveRs m e).qk) : (q = e.qj ∨ q = e.qk) ∧ q ≠ m.tag := by
  obtain ⟨hj, hk⟩ := resolveRs_slots m e
  rw [hj, hk] at hq
  rcases hq with hq | hq <;> split at hq
  · exact absurd hq h0
  · rename_i hne
    exact ⟨.inl hq, hq ▸ hne⟩
  · exact absurd hq h0
  · rename_i hne
    exact ⟨.inr hq, hq ▸ hne⟩

section

variable {s : State} {m : CdbMsg}

theorem deliver_evolves (m : CdbMsg) (s : State) : RobEvolves s (deliver s m) := by
  refine ⟨(deliver_backendOnly s m).tags, rfl, fun q g eg => ?_⟩
  rw [robAt_deliver] at eg
  obtain ⟨h, e, rfl⟩ := Option.map_eq_some_iff.1 eg
  exact ⟨h, e, resolveRob_evolves m h⟩

theorem units_deliver (m : CdbMsg) (s : State) : units (deliver s m) = units s := by
  simp [units, Function.comp_def, resolveRs_frame]

theorem inPool_deliver {e : RsEntry} (h : InPool (deliver s m) e) : ∃ e', InPool s e' ∧ e = resolveRs m e' := by
  rcases h with h | h | h <;> obtain ⟨e', he, rfl⟩ := List.mem_map.1 h
  · exact ⟨e', .inl he, rfl⟩
  · exact ⟨e', .inr (.inl he), rfl⟩
  · exact ⟨e', .inr (.inr he), rfl⟩

theorem InFlight.after_deliver (hs : InFlight s) (hm : m.tag ≠ 0) : InFlight (deliver s m) := by
  refine hs.evolve (deliver_evolves m s) rfl (.of_eq (units_deliver m s)) ?_ ?_ ?_
  · intro x _ h g e eg hunf
    rw [robAt_deliver, e] at eg
    cases eg
    exact resolveRob_unfinished hunf
  · intro q h g e eg hg hk hv
    rw [robAt_deliver, e] at eg
    cases eg
    have hkind : opKind h.ins.op = .amo := hg.ins ▸ hk
    have same : resolveRob m h = h := by
      rw [resolveRob, hs.amoData q h e hkind, if_neg (Ne.symm hm)]
    rw [same] at hv ⊢
    exact hs.amoValue q h e hkind hv
  · intro e he hp
    obtain ⟨e', he', rfl⟩ := List.mem_map.1 he
    obtain ⟨_, _, hprogress⟩ := resolveRs_frame m e'
    have hq := hs.aluReady e' he' (hprogress ▸ hp)
    simp [(resolveRs_slots m e').1, hq]

/-- A delivered message is awaited no more. -/
theorem Announced.after_deliver {ms : List CdbMsg} (hs : Announced (m :: ms) s) : Announced ms (deliver s m) := by
  have resolved (q : Tag) (h0 : q ≠ 0) (hq : Awaited (deliver s m) q) : q ≠ m.tag := by
    rcases hq with ⟨e, he, hq⟩ | ⟨t, h, e, rfl⟩
    · obtain ⟨e', _, rfl⟩ := inPool_deliver he
      exact (resolveRs_awaits h0 hq).2
    · rw [robAt_deliver] at e
      obtain ⟨h', _, rfl⟩ := Option.map_eq_some_iff.1 e
      exact (resolveRob_storeQ h0).2
  intro q hq h0
  obtain ⟨h, e, hd, hc⟩ := hs.evolve (ms' := m :: ms) (deliver_evolves m s) (fun e he q h0 hq => by
    obtain ⟨e', he', rfl⟩ := inPool_deliver he
    exact .inl ⟨e', he', (resolveRs_awaits h0 hq).1⟩) (fun q h g _ e eg _ hc hg => by
    rw [robAt_deliver, e] at eg
    cases eg
    exact hc ((resolveRob_complete m h).symm.trans hg)) q hq h0
  refine ⟨h, e, hd, fun hcomplete => ?_⟩
  obtain ⟨m', hm', rfl⟩ := hc hcomplete
  rcases List.mem_cons.1 hm' with rfl | hm'
  · exact absurd rfl (resolved _ h0 hq)
  · exact ⟨m', hm', rfl⟩

theorem Delivering.after_deliver {ms : List CdbMsg} (hs : Delivering (m :: ms) s) : Delivering ms (deliver s m) where
  inFlight := hs.inFlight.after_deliver (hs.tags m List.mem_cons_self)
  announced := hs.announced.after_deliver
  amos := by
    refine hs.amos.evolve (deliver_evolves m s) fun q h g e eg => ?_
    rw [robAt_deliver, e] at eg
    cases eg
    exact resolveRob_progress m h
  jalr := by
    intro t ht
    obtain ⟨e, he, hd⟩ := hs.jalr t ht
    exact ⟨resolveRs m e, List.mem_map_of_mem he, (resolveRs_frame m e).1.trans hd⟩
  tags := fun m' hm' => hs.tags m' (List.mem_cons_of_mem _ hm')

end

theorem Delivering.after_deliverAll (ms : List CdbMsg) :
    ∀ {s : State}, Delivering ms s → Delivering [] (ms.foldl deliver s) := by
  induction ms with
  | nil => exact id
  | cons m ms ih => exact fun hs => ih hs.after_deliver

/-- The broadcast stage: what the harvest and the messages leave, and no fault. -/
theorem Harvesting.after_broadcastStage {s u : State} (hs : Harvesting [] s) (hr : s.status = .running)
    (h : broadcastStage s = .next u) : Delivering [] u ∧ u.status = .running := by
  obtain ⟨harvested, hnone, hstatus⟩ := hs.after_harvestAll (harvestSet s) rfl
  unfold broadcastStage at h
  dsimp only at h
  rw [if_pos (hstatus.trans hr)] at h
  cases h
  refine ⟨(harvested.delivering hnone).after_deliverAll _, ?_⟩
  obtain ⟨_, _, _, _, _, _, _, _, _, _, _, hdelivered, _⟩ :=
    deliver_frame (harvestAll (harvestSet s) s []).2 (harvestAll (harvestSet s) s []).1
  exact hdelivered.trans (hstatus.trans hr)

end Sys2Proof.Machine
end

section
/-! PROOFS. The execute stage keeps the invariant and raises no stale tag. -/

namespace Sys2Proof.Machine

/-! ### Pools -/

theorem Evolves.trans {h g k : RobEntry} (a : Evolves h g) (b : Evolves g k) : Evolves h k where
  ins := b.ins.trans a.ins
  dest := b.dest.trans a.dest
  storeQ := b.storeQ.elim (fun e => e ▸ a.storeQ) .inr
  complete := b.complete ∘ a.complete
  valueReady := b.valueReady ∘ a.valueReady

theorem RobEvolves.trans {s u v : State} (a : RobEvolves s u) (b : RobEvolves u v) : RobEvolves s v := by
  refine ⟨b.tags.trans a.tags, b.nextTag.trans a.nextTag, fun q k ek => ?_⟩
  obtain ⟨g, eg, hgk⟩ := b.entry q k ek
  obtain ⟨h, e, hhg⟩ := a.entry q g eg
  exact ⟨h, e, hhg.trans hgk⟩

/-- The state `u` after a unit's work on `s`: the invariant holds there, and the entries of the reorder buffer have
evolved. -/
def Advances (s u : State) : Prop := Delivering [] u ∧ RobEvolves s u

theorem Advances.refl {s : State} (hs : Delivering [] s) : Advances s s := ⟨hs, .of_eq rfl rfl⟩

theorem Advances.trans {s u v : State} (a : Advances s u) (b : Advances u v) : Advances s v := ⟨b.1, a.2.trans b.2⟩

/-- The run goes on with the invariant, or has stopped, but not for a stale tag. -/
abbrev Sound (P : State → Prop) (u : State) : Prop := Goes P (fun v => ¬ IsStaleTag v.status) u

theorem Sound.raise {P : State → Prop} {s : State} {f : Fault} (h : ∀ t, f ≠ .staleTag t) : Sound P (raise f s) :=
  .stopped (by simp) (raise_not_stale h)

/-- A move of the units that leaves the reorder buffer alone: no unit is new, what is done stays done, an ALU entry
changes only once its first operand is resolved, and nothing new is awaited. -/
structure UnitMove (s u : State) : Prop where
  rob : u.rob = s.rob
  frame : BackendOnly s u
  units : UnitsLeft s u
  load : ∀ q, LoadDone s q → LoadDone u q
  ready : ∀ e ∈ u.rsAlu, e ∈ s.rsAlu ∨ e.qj = 0
  awaits : ∀ e, InPool u e → ∀ q, (q = e.qj ∨ q = e.qk) → ∃ e', InPool s e' ∧ (q = e'.qj ∨ q = e'.qk)
  alu : u.rsAlu.map (·.dest) = s.rsAlu.map (·.dest)

theorem UnitMove.advances {s u : State} (m : UnitMove s u) (hs : Delivering [] s) : Advances s u := by
  have evolves : RobEvolves s u := .of_eq m.rob m.frame.nextTag
  refine ⟨⟨?_, ?_, ?_, ?_, hs.tags⟩, evolves⟩
  · refine hs.inFlight.sameRob m.rob m.frame.nextTag m.frame.rst m.units m.load fun e he hp => ?_
    exact (m.ready e he).elim (fun hold => hs.inFlight.aluReady e hold hp) id
  · exact hs.announced.sameRob m.rob m.frame.nextTag fun e he q _ hq => .inl (m.awaits e he q hq)
  · refine hs.amos.evolve evolves fun q h g e eg => ?_
    cases e.symm.trans ((robAt_congr m.rob q).symm.trans eg)
    rfl
  · intro t ht
    obtain ⟨e, he, rfl⟩ := hs.jalr t (m.frame.jalrWait ▸ ht)
    have hmem : e.dest ∈ u.rsAlu.map (·.dest) := m.alu ▸ List.mem_map_of_mem he
    exact List.mem_map.1 hmem

/-- A change of one entry of the reorder buffer that completes nothing. -/
theorem Delivering.updateRob_advances {s : State} {t : Tag} {f : RobEntry → RobEntry} (hs : Delivering [] s)
    (htag : ∀ h, (f h).tag = h.tag) (hf : ∀ h, Evolves h (f h)) (hcomplete : ∀ h, (f h).complete = h.complete)
    (hprogress : ∀ h, (f h).progress = h.progress)
    (hunfinished : t ∈ (units s).map (·.1) → ∀ h, robAt s t = some h → Unfinished h → Unfinished (f h))
    (hamo : ∀ h, robAt s t = some h → opKind h.ins.op = .amo → (f h).valueReady = true →
      h.valueReady = true ∨ (f h).complete = true ∨ LoadDone s t) : Advances s (updateRob t f s) :=
  ⟨⟨hs.inFlight.updateRob htag hf hunfinished hamo, hs.announced.updateRob htag hf hcomplete,
    hs.amos.evolve (.updateRob htag hf) (updateRob_keeps htag hprogress), hs.jalr, hs.tags⟩, .updateRob htag hf⟩

/-- Address generation writes an entry that is no store's, or that has left its pool. -/
theorem Delivering.setAddress_advances {s : State} {t : Tag} (a : Word) (hs : Delivering [] s)
    (hunit : t ∈ (units s).map (·.1) → ∀ h, robAt s t = some h → ∀ w, opKind h.ins.op ≠ .store w) :
    Advances s (setAddress t a s) := by
  refine hs.updateRob_advances (fun _ => rfl) (fun _ => ⟨rfl, rfl, .inl rfl, id, id⟩) (fun _ => rfl) (fun _ => rfl) ?_
    fun _ _ _ hv => .inl hv
  intro ht h e hunf
  exact ⟨hunf.1, fun w hk => absurd hk (hunit ht h e w)⟩

section

variable {s : State} {t : Tag}

theorem entryReady_iff {e : RsEntry} : entryReady t e = true ↔ Eligible t e := by
  simp [entryReady, RsEntry.ready, Eligible]

theorem aluEvaluate_unitMove (f : Word → Word → Word → Word) (t : Tag) (s : State) :
    UnitMove s (aluEvaluate f t s) where
  rob := rfl
  frame := .setPools s _ _ _
  units := .of_eq (by simp only [Machine.units, aluEvaluate, updateFirst_map, implies_true])
  load := fun _ => id
  ready := by
    intro e he
    rcases mem_updateFirst he with he | ⟨x, _, hx, rfl⟩
    · exact .inl he
    · exact .inr (entryReady_iff.1 (Bool.and_eq_true_iff.1 hx).1).2.1
  awaits := by
    rintro e (he | he | he) q hq
    · rcases mem_updateFirst he with he | ⟨x, hx, _, rfl⟩
      · exact ⟨e, .inl he, hq⟩
      · exact ⟨x, .inl hx, hq⟩
    · exact ⟨e, .inr (.inl he), hq⟩
    · exact ⟨e, .inr (.inr he), hq⟩
  alu := by simp [aluEvaluate, updateFirst_map]

/-- The MULDIV unit writes its own entry back. -/
theorem InFlight.setMd_unitMove (hs : InFlight s) {e e' : RsEntry} (he : e ∈ s.rsMd) (hdest : e'.dest = e.dest)
    (hins : e'.ins = e.ins) (hj : e'.qj = e.qj) (hk : e'.qk = e.qk) : UnitMove s (setMd e' s) where
  rob := rfl
  frame := .setMd s e'
  units := by
    have same : (setMd e' s).rsMd.map (fun x => (x.dest, x.ins)) = s.rsMd.map fun x => (x.dest, x.ins) := by
      refine updateFirst_map_of_mem _ fun x hx hp => ?_
      have hxe : x.dest = e.dest := (beq_iff_eq.1 hp).trans hdest
      rw [hs.md_inj he hx hxe, hdest, hins]
    refine .of_eq ?_
    unfold Machine.units
    rw [same]
    rfl
  load := fun _ => id
  ready := fun _ => .inl
  awaits := by
    rintro x (hx | hx | hx) q hq
    · exact ⟨x, .inl hx, hq⟩
    · rcases mem_updateFirst hx with hx | ⟨_, _, _, rfl⟩
      · exact ⟨x, .inr (.inl hx), hq⟩
      · exact ⟨e, .inr (.inl he), hj ▸ hk ▸ hq⟩
    · exact ⟨x, .inr (.inr hx), hq⟩
  alu := rfl

theorem Delivering.mdAdvance_sound (hs : Delivering [] s) (hr : s.status = .running) (lat : Nat)
    (f : Word → Word → Option Word) (op : DivOp) : Sound (Advances s) (mdAdvance lat f op t s) := by
  unfold mdAdvance
  split
  · exact .running hr (.refl hs)
  · rename_i e hfind
    have he : e ∈ s.rsMd := List.mem_of_find?_eq_some hfind
    have written (n : Nat) (v : Word) : Advances s (setMd { e with progress := n, result := v } s) :=
      (hs.inFlight.setMd_unitMove (e' := { e with progress := n, result := v }) he rfl rfl rfl rfl).advances hs
    dsimp only
    split
    · split
      · exact .running hr (written _ _)
      · exact .raise fun _ => by simp
    · exact .running hr (written _ _)

theorem aguEntry_mem {e : RsEntry} (h : aguEntry t s = some e) : e ∈ s.rsAgu ∧ e.dest = t := by
  have ready := List.find?_some h
  exact ⟨List.mem_of_find?_eq_some h, (entryReady_iff.1 (Bool.and_eq_true_iff.1 ready).1).1⟩

/-- Address generation takes its entry out: no unit has the tag any more. -/
theorem dropAgu_units {e : RsEntry} (h : aguEntry t s = some e) :
    (units s).Perm ((t, e.ins) :: units (dropAgu t s)) := by
  have hp := (perm_eraseP_of_find h).map fun x : RsEntry => (x.dest, x.ins)
  rw [List.map_cons, (aguEntry_mem h).2] at hp
  exact perm_pick_left (perm_pick_right hp _) _

theorem dropAgu_awaits {e : RsEntry} (he : InPool (dropAgu t s) e) : InPool s e :=
  he.imp_right (Or.imp_right List.mem_of_mem_eraseP)

theorem dropAgu_unitMove {e : RsEntry} (h : aguEntry t s = some e) : UnitMove s (dropAgu t s) where
  rob := rfl
  frame := .dropAgu s t
  units := .of_cons (dropAgu_units h)
  load := fun _ => id
  ready := fun _ => .inl
  awaits := fun e he _ hq => ⟨e, dropAgu_awaits he, hq⟩
  alu := rfl

/-- A load's or an AMO's entry moves from its pool into the load buffer. -/
theorem dropAgu_addLb_unitMove {e : RsEntry} (h : aguEntry t s = some e) (src : Word) :
    UnitMove s (dropAgu t (addLb (newLbEntry e src) s)) where
  rob := rfl
  frame := (BackendOnly.addLb s _).trans (.dropAgu _ t)
  units := by
    have hl := (insertLb_perm (newLbEntry e src) s.lb).map fun l => (l.owner, l.ins)
    have added : (Machine.units (dropAgu t (addLb (newLbEntry e src) s))).Perm
        ((t, e.ins) :: Machine.units (dropAgu t s)) := by
      rw [List.map_cons, show (newLbEntry e src).owner = t from (aguEntry_mem h).2] at hl
      exact perm_pick_right hl _
    exact .of_perm ((dropAgu_units h).trans added.symm)
  load := by
    rintro _ ⟨l, hl, hq⟩
    exact ⟨l, (mem_insertLb _ l s.lb).2 (.inr hl), hq⟩
  ready := fun _ => .inl
  awaits := fun e he _ hq => ⟨e, dropAgu_awaits (s := addLb _ s) he, hq⟩
  alu := rfl

/-- The owner of an address-generation entry is there: no stale tag. -/
theorem InFlight.agu_owner (hs : InFlight s) {e : RsEntry} (h : aguEntry t s = some e) : ∃ g, robAt s t = some g := by
  obtain ⟨he, hd⟩ := aguEntry_mem h
  obtain ⟨g, eg, _⟩ := hs.pool_owner (.inr (.inr he))
  exact ⟨g, hd ▸ eg⟩

theorem Delivering.aguLoad_advances (hs : Delivering [] s) : Advances s (aguLoad t s) := by
  unfold aguLoad
  split
  · exact .refl hs
  · rename_i e h
    exact (dropAgu_addLb_unitMove h 0).advances hs

theorem aguLoad_status (t : Tag) (s : State) : (aguLoad t s).status = s.status := by
  unfold aguLoad
  split <;> rfl

theorem Delivering.aguStore_sound (hs : Delivering [] s) (hr : s.status = .running) :
    Sound (Advances s) (aguStore t s) := by
  unfold aguStore
  split
  · exact .running hr (.refl hs)
  · rename_i e h
    obtain ⟨g, eg⟩ := hs.inFlight.agu_owner h
    rw [eg]
    have dropped := (dropAgu_unitMove h).advances hs
    have left : t ∉ (units (dropAgu t s)).map (·.1) :=
      (List.nodup_cons.1 (((dropAgu_units h).map (·.1)).nodup_iff.1 hs.inFlight.oneUnit)).1
    exact .running hr (dropped.trans (dropped.1.setAddress_advances (effectiveAddress e) fun ht => absurd ht left))

theorem Delivering.aguAmo_sound (hs : Delivering [] s) (hr : s.status = .running)
    (hkind : ∀ h, robAt s t = some h → opKind h.ins.op = .amo) : Sound (Advances s) (aguAmo t s) := by
  unfold aguAmo
  split
  · exact .running hr (.refl hs)
  · rename_i e h
    obtain ⟨g, eg⟩ := hs.inFlight.agu_owner h
    rw [eg]
    have addressed : Advances s (setAddress t (effectiveAddress e) s) :=
      hs.setAddress_advances _ fun _ h' e' w hk => by simp [hkind h' e'] at hk
    have moved : UnitMove (setAddress t (effectiveAddress e) s)
        (dropAgu t (addLb (newLbEntry e e.vk) (setAddress t (effectiveAddress e) s))) :=
      dropAgu_addLb_unitMove (show aguEntry t (setAddress t (effectiveAddress e) s) = some e from h) e.vk
    exact .running hr (addressed.trans (moved.advances addressed.1))

theorem Delivering.aguLoadReserved_sound (hs : Delivering [] s) (hr : s.status = .running)
    (hkind : ∀ h, robAt s t = some h → opKind h.ins.op = .loadReserved) :
    Sound (Advances s) (aguLoadReserved t s) := by
  unfold aguLoadReserved
  split
  · exact .running hr (.refl hs)
  · rename_i e h
    obtain ⟨g, eg⟩ := hs.inFlight.agu_owner h
    rw [eg]
    have addressed : Advances s (setAddress t (effectiveAddress e) s) :=
      hs.setAddress_advances _ fun _ h' e' w hk => by simp [hkind h' e'] at hk
    refine .running hr (addressed.trans (UnitMove.advances ?_ addressed.1))
    refine ⟨rfl, .setPools _ _ _ _, ?_, fun _ => id, fun _ => .inl, ?_, rfl⟩
    · exact .of_eq (by simp only [units, updateFirst_map, implies_true])
    · rintro x (hx | hx | hx) q hq
      · exact ⟨x, .inl hx, hq⟩
      · exact ⟨x, .inr (.inl hx), hq⟩
      · rcases mem_updateFirst hx with hx | ⟨y, hy, _, rfl⟩
        · exact ⟨x, .inr (.inr hx), hq⟩
        · exact ⟨y, .inr (.inr hy), hq⟩

theorem ExecuteMove.sound {o : Op} {u : State} (m : ExecuteMove o t s u) (hs : Delivering [] s)
    (hr : s.status = .running) (ho : ∀ h, robAt s t = some h → h.ins.op = o) : Sound (Advances s) u := by
  cases m with
  | alu f => exact .running hr ((aluEvaluate_unitMove f t s).advances hs)
  | md lat f op => exact hs.mdAdvance_sound hr lat f op
  | load => exact .running ((aguLoad_status t s).trans hr) hs.aguLoad_advances
  | store => exact hs.aguStore_sound hr
  | amo hk => exact hs.aguAmo_sound hr fun h e => (ho h e).symm ▸ hk
  | loadReserved hk => exact hs.aguLoadReserved_sound hr fun h e => (ho h e).symm ▸ hk
  | refused => exact .raise fun _ => by simp

/-! ### The load buffer -/

/-- The load-buffer step writes its own entry back, no less done than it was. -/
theorem InFlight.setLb_unitMove (hs : InFlight s) {l l' : LbEntry} (hl : l ∈ s.lb) (howner : l'.owner = l.owner)
    (hins : l'.ins = l.ins) (hdone : s.cfg.cacheLat ≤ l.progress → s.cfg.cacheLat ≤ l'.progress) :
    UnitMove s (setLb l' s) ∧ l' ∈ (setLb l' s).lb := by
  have same {x : LbEntry} (hx : x ∈ s.lb) (hp : (x.owner == l'.owner) = true) : x = l :=
    hs.lb_inj hl hx ((beq_iff_eq.1 hp).trans howner)
  have placed : l' ∈ (setLb l' s).lb := mem_updateFirst_const hl (beq_iff_eq.2 howner.symm)
  refine ⟨⟨rfl, .setLb s l', ?_, ?_, fun _ => .inl, fun e he q hq => ⟨e, he, hq⟩, rfl⟩, placed⟩
  · have hmap : (setLb l' s).lb.map (fun x => (x.owner, x.ins)) = s.lb.map fun x => (x.owner, x.ins) :=
      updateFirst_map_of_mem _ fun x hx hp => by rw [same hx hp, howner, hins]
    refine .of_eq ?_
    unfold units
    rw [hmap]
    rfl
  · rintro q ⟨x, hx, rfl, hp⟩
    by_cases hxo : (x.owner == l'.owner) = true
    · cases same hx hxo
      exact ⟨l', placed, howner, hdone hp⟩
    · exact ⟨x, mem_updateFirst_of_not hx (by simpa using hxo), rfl, hp⟩

theorem finishLoad_sound (wl : Width) (sign : Bool) {l : LbEntry} (old : Word) (hs : Delivering [] s)
    (hr : s.status = .running) (hl : l ∈ s.lb) : Sound (Advances s) (finishLoad wl sign l old s) :=
  .running hr ((hs.inFlight.setLb_unitMove (l' := { l with result := extend wl sign old }) hl rfl rfl id).1.advances hs)

theorem finishAmo_sound (result new : Word → Word → Word) {l : LbEntry} (old : Word) (hs : Delivering [] s)
    (hr : s.status = .running) (hl : l ∈ s.lb) (hdone : s.cfg.cacheLat ≤ l.progress) :
    Sound (Advances s) (finishAmo result new l old s) := by
  obtain ⟨move, placed⟩ := hs.inFlight.setLb_unitMove (l' := { l with result := result old l.src }) hl rfl rfl id
  have written := move.advances hs
  obtain ⟨g, eg, _⟩ := written.1.inFlight.lb_owner placed
  unfold finishAmo
  dsimp only
  rw [show robAt (setLb { l with result := result old l.src } s) l.owner = some g from eg]
  refine .running hr (written.trans (written.1.updateRob_advances (fun _ => rfl)
    (fun _ => ⟨rfl, rfl, .inl rfl, id, fun _ => rfl⟩) (fun _ => rfl) (fun _ => rfl) (fun _ _ _ hunf => hunf) ?_))
  exact fun _ _ _ _ => .inr (.inr ⟨_, placed, rfl, hdone⟩)

/-- What is done with a value keeps the invariant, if the entry is in the load buffer and done. -/
def FinishSound (fin : LbEntry → Word → State → State) : Prop :=
  ∀ (l : LbEntry) (v : Word) (s : State), Delivering [] s → s.status = .running → l ∈ s.lb →
    s.cfg.cacheLat ≤ l.progress → Sound (Advances s) (fin l v s)

theorem lbProceed_sound {wl : Width} {fin : LbEntry → Word → State → State} (hfin : FinishSound fin) {l l' : LbEntry}
    (hs : Delivering [] s) (hr : s.status = .running) (hl : l ∈ s.lb) (howner : l'.owner = l.owner)
    (hins : l'.ins = l.ins) (hp : l'.progress = l.progress) : Sound (Advances s) (lbProceed wl fin l' s) := by
  obtain ⟨move, placed⟩ := hs.inFlight.setLb_unitMove (l' := { l' with progress := l'.progress + 1 }) hl howner hins
    fun h => Nat.le_succ_of_le (hp ▸ h)
  have counted := move.advances hs
  have finished (v : Word) (hlat : l'.progress + 1 = s.cfg.cacheLat) :
      Sound (Advances s) (fin { l' with progress := l'.progress + 1 } v
        (setLb { l' with progress := l'.progress + 1 } s)) :=
    (hfin _ v _ counted.1 hr placed (Nat.le_of_eq hlat.symm)).imp counted.trans
  unfold lbProceed
  dsimp only
  split
  · rename_i hlat
    split
    · exact finished _ hlat
    · split
      · rename_i f hf
        exact .raise (accessFault_not_stale hf)
      · exact finished _ hlat
  · exact .running hr counted

theorem scanOlder_not_stale {c : Config} {l : LbEntry} {wl : Width} {f : Fault} {hs : List RobEntry}
    (h : scanOlder c l wl hs = .fault f) : ∀ t, f ≠ .staleTag t := by
  induction hs with
  | nil => cases h
  | cons g rest ih =>
    unfold scanOlder at h
    split at h
    · exact ih h
    · split at h
      · cases h
      · split at h
        · split at h
          · unfold forwardFrom at h
            split at h
            · cases h
            · split at h
              · cases h
                simp
              · cases h
          · cases h
        · exact ih h

theorem lbAdvance_sound {wl : Width} {fin : LbEntry → Word → State → State} (hfin : FinishSound fin)
    (hs : Delivering [] s) (hr : s.status = .running) : Sound (Advances s) (lbAdvance wl fin t s) := by
  unfold lbAdvance
  split
  · exact .running hr (.refl hs)
  · rename_i l hfind
    have hl : l ∈ s.lb := List.mem_of_find?_eq_some hfind
    split
    · exact lbProceed_sound hfin hs hr hl rfl rfl rfl
    · split
      · exact .running hr (.refl hs)
      · exact lbProceed_sound hfin hs hr hl rfl rfl rfl
      · exact lbProceed_sound hfin hs hr hl rfl rfl rfl
      · rename_i f hscan
        obtain ⟨g, eg, _⟩ := hs.inFlight.lb_owner hl
        rw [disambiguate, eg] at hscan
        exact .raise (scanOlder_not_stale hscan)

theorem LoadMove.sound {o : Op} {u : State} (m : LoadMove o t s u) (hs : Delivering [] s) (hr : s.status = .running) :
    Sound (Advances s) u := by
  cases m with
  | load w sign => exact lbAdvance_sound (fun _ v _ hs hr hl _ => finishLoad_sound w sign v hs hr hl) hs hr
  | amo result new => exact lbAdvance_sound (fun _ v _ hs hr hl hd => finishAmo_sound result new v hs hr hl hd) hs hr
  | other => exact .running hr (.refl hs)
  | refused => exact .raise fun _ => by simp

end

/-! ### The units' steps -/

theorem Delivering.congr {ms : List CdbMsg} {s u : State} (hs : Delivering ms s) (he : backEnd u = backEnd s)
    (hw : u.jalrWait = s.jalrWait) : Delivering ms u :=
  ⟨hs.inFlight.congr he, hs.announced.congr he, hs.amos.congr he, hs.jalr.congr hw (congrArg (·.rsAlu) he), hs.tags⟩

theorem Advances.setStage {s u : State} {p q : Stage} (a : Advances { s with stage := p } u) :
    Advances s { u with stage := q } :=
  ⟨a.1.congr rfl rfl, ⟨a.2.tags, a.2.nextTag, a.2.entry⟩⟩

/-- Each of these tags belongs to an instruction of this op. -/
def OpsKnown (work : List (Tag × Op)) (s : State) : Prop := ∀ e ∈ work, ∀ h, robAt s e.1 = some h → h.ins.op = e.2

theorem OpsKnown.evolve {work : List (Tag × Op)} {s u : State} (hs : OpsKnown work s) (he : RobEvolves s u) :
    OpsKnown work u := by
  intro e hw g eg
  obtain ⟨h, eh, hg⟩ := he.entry e.1 g eg
  exact (congrArg Decoded.op hg.ins).trans (hs e hw h eh)

/-- A unit's step keeps the invariant, if its list names the instructions of its tags. -/
theorem runEntries_sound {stageOf : Tag → Stage} {work : List (Tag × Op)}
    (visit : ∀ t o s u, Delivering [] s → s.status = .running → (∀ h, robAt s t = some h → h.ins.op = o) →
      execAt (stageOf t) o s = .next u → Sound (Advances s) u)
    {s u : State} (hr : s.status = .running) (hs : Delivering [] s) (ho : OpsKnown work s)
    (h : runEntries stageOf work s = .next u) : Sound (Delivering []) u :=
  (runEntries_induction (P := fun v => Delivering [] v ∧ OpsKnown work v)
    (fun e he v w hvr hv hx => (visit e.1 e.2 v w hv.1 hvr (hv.2 e he) hx).imp fun a => ⟨a.1, hv.2.evolve a.2⟩)
    hr ⟨hs, ho⟩ h).imp And.left

theorem execAt_execute_sound {t : Tag} {o : Op} {s u : State} (hs : Delivering [] s) (hr : s.status = .running)
    (ho : ∀ h, robAt s t = some h → h.ins.op = o) (h : execAt (.execute t) o s = .next u) : Sound (Advances s) u := by
  obtain ⟨v, hv, rfl⟩ := execAt_inv h
  have m := (execOp_execute rfl hv).sound (hs.congr rfl rfl) hr ho
  exact ⟨fun hu => (m.1 hu).setStage, m.2⟩

theorem execAt_load_sound {t : Tag} {o : Op} {s u : State} (hs : Delivering [] s) (hr : s.status = .running)
    (h : execAt (.load t) o s = .next u) : Sound (Advances s) u := by
  obtain ⟨v, hv, rfl⟩ := execAt_inv h
  have m := (execOp_load rfl hv).sound (hs.congr rfl rfl) hr
  exact ⟨fun hu => (m.1 hu).setStage, m.2⟩

theorem InFlight.poolWork_known {s : State} (hs : InFlight s) {es : List RsEntry} (hes : ∀ e ∈ es, InPool s e) :
    OpsKnown (poolWork es) s := by
  intro w hw h eh
  obtain ⟨e, he, rfl⟩ := List.mem_map.1 hw
  obtain ⟨g, eg, hins, _⟩ := hs.pool_owner (hes e he)
  cases eg.symm.trans eh
  exact congrArg Decoded.op hins

theorem InFlight.lbWork_known {s : State} (hs : InFlight s) : OpsKnown (s.lb.map fun l => (l.owner, l.ins.op)) s := by
  intro w hw h eh
  obtain ⟨l, hl, rfl⟩ := List.mem_map.1 hw
  obtain ⟨g, eg, hins, _⟩ := hs.lb_owner hl
  cases eg.symm.trans eh
  exact congrArg Decoded.op hins

theorem Delivering.after_executeStage {s u : State} (hs : Delivering [] s) (hr : s.status = .running)
    (h : executeStage s = .next u) : Sound (Delivering []) u := by
  refine executeStage_induction (fun v w hvr hv hx => ?_) hr hs h
  have pool {es : List RsEntry} (hes : ∀ e ∈ es, InPool v e) (hx : runEntries .execute (poolWork es) v = .next w) :
      Sound (Delivering []) w :=
    runEntries_sound (fun _ _ _ _ => execAt_execute_sound) hvr hv (hv.inFlight.poolWork_known hes) hx
  rcases hx with hx | hx | hx | hx
  · exact pool (fun _ => .inl) hx
  · exact pool (fun _ he => .inr (.inl he)) hx
  · exact pool (fun _ he => .inr (.inr he)) hx
  · exact runEntries_sound (fun _ _ _ _ hs hr _ => execAt_load_sound hs hr) hvr hv hv.inFlight.lbWork_known hx

end Sys2Proof.Machine
end

section
/-! PROOFS. The commit stage keeps the invariant. -/

namespace Sys2Proof.Machine

/-- The invariant at the start of a tick. -/
structure TickStart (s : State) : Prop where
  inFlight : InFlight s
  announced : Announced [] s
  amos : AmosHarvested s
  jalr : JalrBlocked s

theorem TickStart.congr {s u : State} (hs : TickStart s) (he : backEnd u = backEnd s)
    (hw : u.jalrWait = s.jalrWait) : TickStart u :=
  ⟨hs.inFlight.congr he, hs.announced.congr he, hs.amos.congr he, hs.jalr.congr hw (congrArg (·.rsAlu) he)⟩

theorem AmosReady.congr {s u : State} (hs : AmosReady s) (he : backEnd u = backEnd s) : AmosReady u := by
  have hb : AmosReady (backEnd s) := hs
  rwa [← he] at hb

theorem Harvesting.congr {ms : List CdbMsg} {s u : State} (hs : Harvesting ms s) (he : backEnd u = backEnd s)
    (hw : u.jalrWait = s.jalrWait) : Harvesting ms u :=
  ⟨hs.inFlight.congr he, hs.announced.congr he, hs.amos.congr he, hs.jalr.congr hw (congrArg (·.rsAlu) he), hs.tags⟩

theorem TickStart.harvesting {s : State} (hs : TickStart s) : Harvesting [] s :=
  ⟨hs.inFlight, hs.announced, fun q h e hk hp => .inl (hs.amos q h e hk hp), hs.jalr, by simp⟩

/-- Where nothing is in flight, the invariant holds: a squash, and the start of a run. -/
theorem TickStart.of_empty {s : State} (hrob : s.rob = []) (hunits : units s = []) (hrst : s.rst = clearAll)
    (hwait : s.jalrWait = .none) (hnext : 1 ≤ s.nextTag) : TickStart s := by
  have absent (q : Tag) : robAt s q = none := by simp [robAt, hrob]
  have noPool {e : RsEntry} (he : InPool s e) : False := by
    have hm : (e.dest, e.ins) ∈ units s := mem_units.2 (.inl ⟨e, he, rfl⟩)
    rw [hunits] at hm
    cases hm
  refine ⟨⟨by simp [TagsInOrder, hrob, hnext], by simp [hunits], by simp [hunits], ?_, ?_, ?_, ?_, ?_, ?_⟩, ?_, ?_, ?_⟩
  · intro r hr
    simp [rstAt, hrst, clearAll, freeEntry] at hr
  · simp [absent]
  · simp [absent]
  · simp [absent]
  · simp [absent]
  · exact fun e he => (noPool (.inl he)).elim
  · rintro q (⟨e, he, _⟩ | ⟨t, h, e, _⟩)
    · exact (noPool he).elim
    · simp [absent] at e
  · simp [AmosHarvested, absent]
  · simp [JalrBlocked, hwait]

/-- Commit may take this entry off the reorder buffer: it is complete, or a store with its address. -/
def Retirable (h : RobEntry) : Prop := h.complete = true ∨ ∃ w, opKind h.ins.op = .store w ∧ h.addrReady = true

theorem Retirable.not_unfinished {h : RobEntry} (hr : Retirable h) : ¬ Unfinished h := by
  rintro ⟨hc, ha⟩
  rcases hr with hr | ⟨w, hk, hr⟩
  · simp [hc] at hr
  · simp [ha w hk] at hr

theorem storeWidth_some {o : Op} (h : storeWidth o ≠ none) : (∃ w, opKind o = .store w) ∨ opKind o = .amo := by
  unfold storeWidth at h
  split at h
  · rename_i w hk
    exact .inl ⟨w, hk⟩
  · rename_i hk
    exact .inr hk
  all_goals exact absurd rfl h

section

variable {s : State} {h : RobEntry} {younger : List RobEntry}

/-- A register that is busy after a release was so before, and its owner is another. -/
theorem rstReleased_busy {r d : Reg} {t : Tag} (hb : ((rstReleased s d t)[r.toNat]'r.isLt).busy = true) :
    (rstReleased s d t)[r.toNat]'r.isLt = rstAt s r ∧ (r = d → r ≠ 0 → (rstAt s r).tag ≠ t) := by
  unfold rstReleased rstAt at *
  split at hb
  · rename_i hd
    rw [if_pos hd]
    by_cases hr : d.toNat = r.toNat
    · simp [hr] at hb
    · exact ⟨by simp [hr], fun he => absurd (congrArg BitVec.toNat he.symm) hr⟩
  · rename_i hd
    rw [if_neg hd]
    refine ⟨rfl, ?_⟩
    rintro rfl h0 ht
    refine hd ⟨h0, ?_⟩
    rw [← ht, ← hb]

/-- The head leaves, and its claim with it. -/
def retired (h : RobEntry) (s : State) : State := retire { s with rst := rstReleased s h.dest h.tag }

theorem retired_rob (hrob : s.rob = h :: younger) : (retired h s).rob = younger := by
  simp [retired, hrob]

theorem robAt_retired_of_ne (hrob : s.rob = h :: younger) {q : Tag} (hq : q ≠ h.tag) :
    robAt (retired h s) q = robAt s q :=
  robAt_tail hrob (retired_rob hrob) hq

theorem robAt_of_retired (ho : TagsInOrder s) (hrob : s.rob = h :: younger) {q : Tag} {g : RobEntry}
    (e : robAt (retired h s) q = some g) : robAt s q = some g := by
  rw [← robAt_retired_of_ne hrob (q := q), e]
  rintro rfl
  rw [robAt_tail_head ho hrob (retired_rob hrob)] at e
  cases e

/-- The head, once it may retire, leaves no unit and no claim behind. -/
theorem InFlight.after_retire (hs : InFlight s) (hrob : s.rob = h :: younger) (hr : Retirable h) :
    InFlight (retired h s) where
  order := TagsGrown.tagsInOrder hs.order (TagsKept.grown ⟨by simp [robTags, retired_rob hrob, hrob], rfl⟩)
  oneUnit := hs.oneUnit
  owned := by
    intro x hx
    obtain ⟨g, e, hins, hunf⟩ := hs.owned x hx
    refine ⟨g, (robAt_retired_of_ne hrob ?_).trans e, hins, hunf⟩
    intro hq
    rw [hq, robAt_head hrob] at e
    cases e
    exact hr.not_unfinished hunf
  busy := by
    intro r hb
    obtain ⟨hsame, hnot⟩ := rstReleased_busy (s := s) hb
    rw [show rstAt (retired h s) r = rstAt s r from hsame] at *
    obtain ⟨h0, g, e, hd⟩ := hs.busy r hb
    refine ⟨h0, g, (robAt_retired_of_ne hrob ?_).trans e, hd⟩
    intro hq
    rw [hq, robAt_head hrob] at e
    cases e
    exact hnot hd.symm h0 hq
  storeDest q g e := hs.storeDest q g (robAt_of_retired hs.order hrob e)
  branchDest q g e := hs.branchDest q g (robAt_of_retired hs.order hrob e)
  amoData q g e := hs.amoData q g (robAt_of_retired hs.order hrob e)
  amoValue q g e := hs.amoValue q g (robAt_of_retired hs.order hrob e)
  aluReady := hs.aluReady

/-- Nothing waits for the head once it may retire: its result has been announced, or it is a store. -/
theorem Announced.after_retire (hs : Announced [] s) (hin : InFlight s) (hrob : s.rob = h :: younger)
    (hr : Retirable h) : Announced [] (retired h s) := by
  intro q hq h0
  have awaited : Awaited s q := hq.imp_right fun ⟨t, g, e, hg⟩ => ⟨t, g, robAt_of_retired hin.order hrob e, hg⟩
  obtain ⟨g, e, hd, hc⟩ := hs q awaited h0
  refine ⟨g, (robAt_retired_of_ne hrob ?_).trans e, hd, hc⟩
  rintro rfl
  cases (robAt_head hrob).symm.trans e
  rcases hr with hr | ⟨w, hk, _⟩
  · obtain ⟨m, hm, _⟩ := hc hr
    cases hm
  · exact hd (hin.storeDest _ h (robAt_head hrob) w hk)

theorem TickStart.after_retire (hs : TickStart s) (hrob : s.rob = h :: younger) (hr : Retirable h) :
    Harvesting [] (retired h s) where
  inFlight := hs.inFlight.after_retire hrob hr
  announced := hs.announced.after_retire hs.inFlight hrob hr
  amos q g e hk hp := .inl (hs.amos q g (robAt_of_retired hs.inFlight.order hrob e) hk hp)
  jalr := hs.jalr
  tags := by simp

/-- The latency tick of a store or an AMO. -/
theorem TickStart.after_hold (hs : TickStart s) (hrob : s.rob = h :: younger) (hv : h.valueReady = true) :
    Harvesting [] { s with rob := { h with progress := 1 } :: younger } := by
  obtain ⟨hin, hann, hamo, hjalr⟩ := hs
  rw [show { s with rob := { h with progress := 1 } :: younger } =
    updateRob h.tag (fun g => { g with progress := 1 }) s by simp [updateRob, hrob, updateFirst]]
  have evolves (g : RobEntry) : Evolves g { g with progress := 1 } := ⟨rfl, rfl, .inl rfl, id, id⟩
  refine ⟨hin.updateRob (fun _ => rfl) evolves (fun _ _ _ => id) fun _ _ _ => .inl,
    hann.updateRob (fun _ => rfl) evolves fun _ => rfl, ?_, hjalr, by simp⟩
  intro q g e hk hp
  rw [robAt_updateRob (f := fun g => { g with progress := 1 }) fun _ => rfl] at e
  split at e
  · rename_i hq
    subst hq
    rw [robAt_head hrob] at e
    cases e
    exact .inr hv
  · exact .inl (hamo q g e hk hp)

theorem CommitResult.sound {u : State} (r : CommitResult h.ins.op s u) (hs : TickStart s) (hr : s.status = .running)
    (hrob : s.rob = h :: younger) : Sound (Harvesting []) u := by
  cases r with
  | idle => exact .running hr hs.harvesting
  | stop status hstop hstale => exact .stopped hstop hstale
  | hold g younger' hrob' _ _ hv =>
    cases hrob.symm.trans hrob'
    exact .running hr (hs.after_hold hrob hv)
  | retire g younger' mem hrob' hdone =>
    cases hrob.symm.trans hrob'
    have retirable : Retirable h := by
      rcases hdone with hc | ⟨hstore, haddr, hp⟩
      · exact .inl hc
      · rcases storeWidth_some hstore with ⟨w, hk⟩ | hk
        · exact .inr ⟨w, hk, haddr⟩
        · exact .inl (hs.amos _ h (robAt_head hrob) hk hp)
    rw [writeBack_eq]
    exact .running hr ((hs.after_retire hrob retirable).congr rfl rfl)
  | branch g younger' pred hrob' hk hc =>
    cases hrob.symm.trans hrob'
    have unclaimed : rstReleased s h.dest h.tag = s.rst := by
      simp [rstReleased, hs.inFlight.branchDest _ h (robAt_head hrob) hk]
    have left := hs.after_retire hrob (.inl hc)
    rw [retired, unclaimed] at left
    exact .running hr (left.congr rfl rfl)
  | squash regs mem pc pred =>
    have emptied : TickStart (Machine.squash { s with regs := regs, mem := mem, pc := pc, pred := pred }) :=
      .of_empty rfl rfl rfl rfl hs.inFlight.order.2.2
    exact .running hr emptied.harvesting

theorem TickStart.after_commitStage {u : State} (hs : TickStart s) (hr : s.status = .running)
    (hc : commitStage s = .next u) : Sound (Harvesting []) u := by
  rcases commitStage_cases hc with ⟨_, rfl⟩ | ⟨head, younger, v, hrob, r, rfl⟩
  · exact .running hr hs.harvesting
  · have sound := r.sound (s := { s with stage := .commit }) (hs.congr rfl rfl) hr hrob
    exact ⟨fun hu => (sound.1 hu).congr rfl rfl, sound.2⟩

end

end Sys2Proof.Machine
end

section
/-! PROOFS. The issue and fetch stages keep the invariant, and with the other three so does every step: the statements
about every run. -/

namespace Sys2Proof.Machine

/-! ### The issue stage -/

section

variable {s : State}

/-- The tag of a slot, if it holds one, is that of a producer that is not complete and has a destination. -/
def SlotProduced (s : State) (x : Slot) : Prop :=
  x.q ≠ 0 → ∃ h, robAt s x.q = some h ∧ h.dest ≠ 0 ∧ h.complete = false

/-- The rename read meets no stale tag (40_cycle_issue_rename.md R141). -/
theorem InFlight.renameRead (hs : InFlight s) (r : Reg) : ∃ x, renameRead s r = .slot x ∧ SlotProduced s x := by
  have value (v : Word) : SlotProduced s ⟨v, 0⟩ := fun h => absurd rfl h
  unfold Machine.renameRead
  split
  · exact ⟨_, rfl, value _⟩
  · split
    · exact ⟨_, rfl, value _⟩
    · rename_i hbusy
      obtain ⟨h0, h, e, hd⟩ := hs.busy r (by simpa using hbusy)
      rw [e]
      dsimp only
      split
      · exact ⟨_, rfl, value _⟩
      · rename_i hc
        exact ⟨_, rfl, fun _ => ⟨h, e, hd ▸ h0, by simpa using hc⟩⟩

theorem InFlight.readOperand (hs : InFlight s) (pc : Word) (x : Operand) :
    ∃ y, readOperand s pc x = .slot y ∧ SlotProduced s y := by
  cases x with
  | reg r => exact hs.renameRead r
  | const v => exact ⟨_, rfl, fun h => absurd rfl h⟩
  | pc => exact ⟨_, rfl, fun h => absurd rfl h⟩

/-- The three reads of an issue meet no stale tag, and what is no store has no data to wait for. -/
theorem InFlight.readOperands (hs : InFlight s) (pc : Word) (j k : Operand) (data : Option Reg) :
    ∃ x y z, readOperands s pc j k data = .slots x y z ∧ SlotProduced s x ∧ SlotProduced s y ∧ SlotProduced s z ∧
      (data = none → z = ⟨0, 0⟩) := by
  obtain ⟨x, ex, hx⟩ := hs.readOperand pc j
  obtain ⟨y, ey, hy⟩ := hs.readOperand pc k
  unfold Machine.readOperands
  rw [ex, ey]
  cases data with
  | none => exact ⟨x, y, _, rfl, hx, hy, fun h => absurd rfl h, fun _ => rfl⟩
  | some r =>
    obtain ⟨z, ez, hz⟩ := hs.renameRead r
    dsimp only
    rw [ez]
    exact ⟨x, y, z, rfl, hx, hy, hz, fun h => by cases h⟩

/-- What an issue leaves of the state: one entry more in the reorder buffer and in the pool `p`, both of the next tag,
and the claim of the destination (R142, R143, R146). -/
structure Issues (s u : State) (p : Pool) (n : RobEntry) (e : RsEntry) : Prop where
  rob : u.rob = s.rob ++ [n]
  tag : n.tag = s.nextTag
  nextTag : u.nextTag = s.nextTag + 1
  rst : u.rst = rstClaimed s n.dest s.nextTag
  lb : u.lb = s.lb
  cfg : u.cfg = s.cfg
  status : u.status = s.status
  jalrWait : u.jalrWait = s.jalrWait
  unit : (units u).Perm ((s.nextTag, n.ins) :: units s)
  pool : ∀ x, InPool u x → InPool s x ∨ x = e
  alu : ∀ x ∈ u.rsAlu, x ∈ s.rsAlu ∨ x = e
  aluKept : ∀ x ∈ s.rsAlu, x ∈ u.rsAlu
  placed : p = .alu → e ∈ u.rsAlu

theorem setPool_issues (p : Pool) (iq : List Decoded) {n : RobEntry} {e : RsEntry} (htag : n.tag = s.nextTag)
    (hdest : e.dest = s.nextTag) (hins : e.ins = n.ins) :
    Issues s (claim n.dest s.nextTag (setPool p (poolOf s p ++ [e])
      { s with iq := iq, nextTag := s.nextTag + 1, rob := s.rob ++ [n] })) p n e := by
  rw [claim_eq]
  have new {l : List RsEntry} : ((l ++ [e]).map fun x => (x.dest, x.ins)).Perm
      ((s.nextTag, n.ins) :: l.map fun x => (x.dest, x.ins)) := by
    rw [List.map_append, List.map_singleton, hdest, hins]
    exact List.perm_append_comm
  have added {l : List RsEntry} (x : RsEntry) (hx : x ∈ l ++ [e]) : x ∈ l ∨ x = e :=
    (List.mem_append.1 hx).imp_right List.mem_singleton.1
  cases p with
  | alu =>
    refine ⟨rfl, htag, rfl, rfl, rfl, rfl, rfl, rfl, perm_pick_left (perm_pick_left (perm_pick_left new _) _) _, ?_,
      added, fun _ => List.mem_append_left _, fun _ => List.mem_append_right _ (List.mem_singleton_self e)⟩
    rintro x (hx | hx | hx)
    · exact (added x hx).imp_left .inl
    · exact .inl (.inr (.inl hx))
    · exact .inl (.inr (.inr hx))
  | md =>
    refine ⟨rfl, htag, rfl, rfl, rfl, rfl, rfl, rfl, perm_pick_left (perm_pick_left (perm_pick_right new _) _) _, ?_,
      fun _ => .inl, fun _ => id, fun h => by cases h⟩
    rintro x (hx | hx | hx)
    · exact .inl (.inl hx)
    · exact (added x hx).imp_left fun h => .inr (.inl h)
    · exact .inl (.inr (.inr hx))
  | agu =>
    refine ⟨rfl, htag, rfl, rfl, rfl, rfl, rfl, rfl, perm_pick_left (perm_pick_right new _) _, ?_,
      fun _ => .inl, fun _ => id, fun h => by cases h⟩
    rintro x (hx | hx | hx)
    · exact .inl (.inl hx)
    · exact .inl (.inr (.inl hx))
    · exact (added x hx).imp_left fun h => .inr (.inr h)

/-- A register that is busy after a claim is the claimed one, or was busy before. -/
theorem rstClaimed_busy {r d : Reg} {t : Tag} :
    (r = d ∧ d ≠ 0 ∧ (rstClaimed s d t)[r.toNat]'r.isLt = ⟨true, t⟩) ∨
      (rstClaimed s d t)[r.toNat]'r.isLt = rstAt s r := by
  unfold rstClaimed rstAt
  split
  · exact .inr rfl
  · rename_i hd
    by_cases hr : d.toNat = r.toNat
    · exact .inl ⟨(BitVec.eq_of_toNat_eq hr).symm, hd, by simp [hr]⟩
    · exact .inr (by simp [hr])

section

variable {u : State} {p : Pool} {n : RobEntry} {e : RsEntry}

theorem Issues.robAt_new (i : Issues s u p n e) (ho : TagsInOrder s) : robAt u s.nextTag = some n := by
  rw [robAt_append ho i.rob i.tag, if_pos rfl]

theorem Issues.robAt_old (i : Issues s u p n e) (ho : TagsInOrder s) {q : Tag} {h : RobEntry}
    (eq : robAt s q = some h) : robAt u q = some h := by
  rw [robAt_append ho i.rob i.tag, if_neg (Nat.ne_of_lt (robAt_range ho eq).2)]
  exact eq

theorem Issues.robAt_cases (i : Issues s u p n e) (ho : TagsInOrder s) {q : Tag} {h : RobEntry}
    (eq : robAt u q = some h) : h = n ∨ robAt s q = some h := by
  rw [robAt_append ho i.rob i.tag] at eq
  split at eq
  · cases eq
    exact .inl rfl
  · exact .inr eq

theorem InFlight.after_issue (hs : InFlight s) (i : Issues s u p n e) (hunf : Unfinished n)
    (hstore : ∀ w, opKind n.ins.op = .store w → n.dest = 0) (hbranch : opKind n.ins.op = .branch → n.dest = 0)
    (hamo : opKind n.ins.op = .amo → n.storeQ = 0 ∧ n.valueReady = false) (hidle : e.progress = 0) : InFlight u where
  order := by
    refine TagsGrown.tagsInOrder hs.order ⟨robTags s, .refl _, .inr ⟨?_, i.nextTag⟩⟩
    simp [robTags, i.rob, i.tag]
  oneUnit := by
    refine ((i.unit.map (·.1)).nodup_iff).2 (List.nodup_cons.2 ⟨fun hm => ?_, hs.oneUnit⟩)
    obtain ⟨x, hx, hxt⟩ := List.mem_map.1 hm
    obtain ⟨h, e, _⟩ := hs.owned x hx
    exact Nat.ne_of_lt (robAt_range hs.order e).2 hxt
  owned := by
    intro x hx
    rcases List.mem_cons.1 (i.unit.subset hx) with rfl | hx
    · exact ⟨n, i.robAt_new hs.order, rfl, hunf⟩
    · obtain ⟨h, e, hold⟩ := hs.owned x hx
      exact ⟨h, i.robAt_old hs.order e, hold⟩
  busy := by
    intro r hr
    have at_r : rstAt u r = (rstClaimed s n.dest s.nextTag)[r.toNat]'r.isLt := by simp only [rstAt, i.rst]
    have hcases := rstClaimed_busy (s := s) (r := r) (d := n.dest) (t := s.nextTag)
    rw [← at_r] at hcases
    rcases hcases with ⟨hrd, h0, hc⟩ | hc
    · rw [hc]
      exact ⟨hrd ▸ h0, n, i.robAt_new hs.order, hrd.symm⟩
    · rw [hc] at hr ⊢
      obtain ⟨h0, h, e, hd⟩ := hs.busy r hr
      exact ⟨h0, h, i.robAt_old hs.order e, hd⟩
  storeDest := by
    intro q h eq
    rcases i.robAt_cases hs.order eq with rfl | eq
    · exact hstore
    · exact hs.storeDest q h eq
  branchDest := by
    intro q h eq
    rcases i.robAt_cases hs.order eq with rfl | eq
    · exact hbranch
    · exact hs.branchDest q h eq
  amoData := by
    intro q h eq hk
    rcases i.robAt_cases hs.order eq with rfl | eq
    · exact (hamo hk).1
    · exact hs.amoData q h eq hk
  amoValue := by
    intro q h eq hk hv
    rcases i.robAt_cases hs.order eq with rfl | eq
    · simp [(hamo hk).2] at hv
    · refine (hs.amoValue q h eq hk hv).imp_right ?_
      rintro ⟨l, hl, hq, hp⟩
      exact ⟨l, i.lb ▸ hl, hq, i.cfg ▸ hp⟩
  aluReady := by
    intro x hx hp
    rcases i.alu x hx with hx | rfl
    · exact hs.aluReady x hx hp
    · exact absurd hidle hp

theorem Announced.after_issue (hs : Announced [] s) (ho : TagsInOrder s) (i : Issues s u p n e)
    (hj : SlotProduced s ⟨e.vj, e.qj⟩) (hk : SlotProduced s ⟨e.vk, e.qk⟩) (hd : SlotProduced s ⟨n.wb, n.storeQ⟩) :
    Announced [] u := by
  intro q hq h0
  have produced {v : Word} (h : SlotProduced s ⟨v, q⟩) :
      ∃ h, robAt u q = some h ∧ h.dest ≠ 0 ∧ (h.complete = true → ∃ m ∈ ([] : List CdbMsg), m.tag = q) := by
    obtain ⟨g, eg, hdest, hc⟩ := h h0
    exact ⟨g, i.robAt_old ho eg, hdest, fun hc' => by simp [hc] at hc'⟩
  have old (h : Awaited s q) :
      ∃ h, robAt u q = some h ∧ h.dest ≠ 0 ∧ (h.complete = true → ∃ m ∈ ([] : List CdbMsg), m.tag = q) := by
    obtain ⟨g, eg, hg⟩ := hs q h h0
    exact ⟨g, i.robAt_old ho eg, hg⟩
  rcases hq with ⟨x, hx, hq⟩ | ⟨t, h, eq, rfl⟩
  · rcases i.pool x hx with hx | rfl
    · exact old (.inl ⟨x, hx, hq⟩)
    · rcases hq with rfl | rfl
      · exact produced hj
      · exact produced hk
  · rcases i.robAt_cases ho eq with rfl | eq
    · exact produced hd
    · exact old (.inr ⟨t, h, eq, rfl⟩)

end

/-- The issue of the head of iq: no stale tag, and the invariant holds; where it goes to rs_alu, its entry is there. -/
theorem Delivering.issueAs_sound {form : IssueForm} {r : Decoded} {waiting : List Decoded} (hs : Delivering [] s)
    (hr : s.status = .running) (hiq : s.iq = r :: waiting) (hstore : ∀ w, opKind r.op = .store w → form.dest = 0)
    (hbranch : opKind r.op = .branch → form.dest = 0) (hamo : opKind r.op = .amo → form.data = none) :
    (issueAs form s).status = .running ∧ Delivering [] (issueAs form s) ∧
      (form.pool = .alu → ∃ e ∈ (issueAs form s).rsAlu, e.dest = s.nextTag) := by
  obtain ⟨j, k, d, hreads, hj, hk, hd, hnone⟩ := hs.inFlight.readOperands r.pc form.j form.k form.data
  have issued : issueAs form s = claim form.dest s.nextTag (setPool form.pool
      (poolOf s form.pool ++ [newRsEntry form r s.nextTag j k])
      { s with iq := waiting, nextTag := s.nextTag + 1, rob := s.rob ++ [newRobEntry form r s.nextTag d] }) := by
    rcases issueAs_cases form s with ⟨he, _⟩ | ⟨r', _, q, he, hq, _⟩ | ⟨r', _, j', k', d', he, hq, h⟩
    · cases hiq.symm.trans he
    · cases hiq.symm.trans he
      cases hreads.symm.trans hq
    · cases hiq.symm.trans he
      cases hreads.symm.trans hq
      exact h
  have i : Issues s (issueAs form s) form.pool (newRobEntry form r s.nextTag d)
      (newRsEntry form r s.nextTag j k) := by
    rw [issued]
    exact setPool_issues (n := newRobEntry form r s.nextTag d) (e := newRsEntry form r s.nextTag j k) form.pool waiting
      rfl rfl rfl
  refine ⟨i.status.trans hr, ⟨?_, hs.announced.after_issue hs.inFlight.order i hj hk hd, ?_, ?_, hs.tags⟩,
    fun hpool => ⟨_, i.placed hpool, rfl⟩⟩
  · refine hs.inFlight.after_issue i ⟨rfl, fun _ _ => rfl⟩ hstore hbranch (fun h => ?_) rfl
    have hdata := hamo h
    simp [newRobEntry, hdata, hnone hdata]
  · intro q h eq hkind hp
    rcases i.robAt_cases hs.inFlight.order eq with rfl | eq
    · exact absurd rfl hp
    · exact hs.amos q h eq hkind hp
  · intro t ht
    obtain ⟨e, he, hdest⟩ := hs.jalr t (i.jalrWait ▸ ht)
    exact ⟨e, i.aluKept e he, hdest⟩

theorem IssueMove.sound {u : State} {r : Decoded} {waiting : List Decoded} (m : IssueMove r.op s u)
    (hs : Delivering [] s) (hr : s.status = .running) (hiq : s.iq = r :: waiting) : Sound (Delivering []) u := by
  cases m with
  | issue form hstore hbranch hamo =>
    obtain ⟨hrun, issued, _⟩ := hs.issueAs_sound hr hiq hstore hbranch hamo
    exact .running hrun issued
  | jalr form hkind hpool =>
    obtain ⟨hrun, issued, hplaced⟩ := hs.issueAs_sound (form := form) hr hiq (by simp [hkind]) (by simp [hkind])
      (by simp [hkind])
    unfold issueJalr
    dsimp only
    split
    · refine .running hrun
        ⟨issued.inFlight.congr rfl, issued.announced.congr rfl, issued.amos.congr rfl, ?_, issued.tags⟩
      rintro _ ⟨⟩
      exact hplaced hpool
    · exact .running hrun issued
  | refused => exact .raise fun _ => by simp

theorem Delivering.after_issueStage {u : State} (hs : Delivering [] s) (hr : s.status = .running)
    (h : issueStage s = .next u) : Sound (Delivering []) u := by
  rcases issueStage_cases h with ⟨_, rfl⟩ | ⟨r, waiting, v, hiq, m, rfl⟩
  · exact .running hr hs
  · have sound := m.sound (s := { s with stage := .issue }) (hs.congr rfl rfl) hr hiq
    exact ⟨fun hu => (sound.1 hu).congr rfl rfl, sound.2⟩

/-! ### The fetch stage -/

theorem FetchMove.jalrBlocked {u : State} (m : FetchMove s u) (hw : s.jalrWait = .none) : JalrBlocked u := by
  intro t ht
  cases m with
  | enqueue o p next => cases hw.symm.trans ht
  | jalr i => cases ht
  | refused => cases hw.symm.trans ht

/-- Fetch finds the JALR it waits for, and waits on only while the base is missing (44_branch_fetch.md R328). -/
theorem Delivering.after_fetchStage {u : State} (hs : Delivering [] s) (hr : s.status = .running)
    (h : fetchStage s = .next u) : Sound TickStart u := by
  rcases fetchStage_cases h with ⟨hw, rfl⟩ | ⟨t, hw, hnone, _⟩ | ⟨t, e, hw, hfind, hq, rfl⟩ | ⟨_, f, hf, rfl⟩ |
      ⟨_, v, m, rfl⟩
  · exact .running hr ⟨hs.inFlight, hs.announced, hs.amos, fun t ht => by cases hw.symm.trans ht⟩
  · obtain ⟨e, he, hd⟩ := hs.jalr t hw
    exact absurd (List.find?_eq_none.1 hnone e he) (by simp [hd])
  · refine .running hr ⟨hs.inFlight, hs.announced, hs.amos, fun t' ht => ?_⟩
    cases hw.symm.trans ht
    exact ⟨e, List.mem_of_find?_eq_some hfind, by simpa using List.find?_some hfind, hq⟩
  · exact .raise hf
  · have hjalr := m.jalrBlocked rfl
    cases m with
    | enqueue o p next =>
      exact .running hr ⟨hs.inFlight.congr rfl, hs.announced.congr rfl, hs.amos.congr rfl, hjalr⟩
    | jalr i => exact .running hr ⟨hs.inFlight.congr rfl, hs.announced.congr rfl, hs.amos.congr rfl, hjalr⟩
    | refused => exact .stopped (fun h => by cases h) (raise_not_stale (f := .decodeFault _ _) fun _ => by simp)

end

/-! ### Every step and every run -/

/-- A step keeps the invariant, or ends the run with no stale tag. -/
theorem TickStart.after_step {s t : State} (hs : TickStart s) (h : step s = .next t) : Sound TickStart t :=
  step_induction h (fun _ => hs.after_commitStage (step_next h).1)
    (fun _ _ hr ha hb => have sound := ha.after_broadcastStage hr hb; .running sound.2 sound.1)
    (fun _ _ hr hb => hb.after_executeStage hr) (fun _ _ hr hc => hc.after_issueStage hr)
    (fun _ _ hr hd => hd.after_fetchStage hr) (fun _ _ he => he.congr rfl rfl)

/-- What every step keeps holds at the end of every run from where it holds. -/
theorem run_induction {P : State → Prop} (hstep : ∀ s t, P s → step s = .next t → P t) (n : Nat) :
    ∀ s t : State, P s → core.run n s = .next t → P t := by
  induction n with
  | zero =>
    intro s t hs h
    cases h
    exact hs
  | succ n ih =>
    intro s t hs h
    simp only [Host.Core.run] at h
    split at h
    · rename_i u hu
      exact ih u t (hstep s u hs hu) h
    · cases h
    · cases h

theorem launch_tickStart (cfg : Config) (entry : Word) (regs : RegFile) (mem : Memory) :
    TickStart (State.launch cfg entry regs mem) :=
  .of_empty rfl rfl rfl rfl (Nat.le_refl 1)

theorem launch_zeroRegister (cfg : Config) (entry : Word) (regs : RegFile) (mem : Memory) :
    ZeroRegister (State.launch cfg entry regs mem) := by
  simp [ZeroRegister, State.launch]

/-- Every state of a run meets the invariant, or is a stop that is no stale tag's. -/
theorem reaches_tickStart {cfg : Config} {entry : Word} {regs : RegFile} {mem : Memory} {n : Nat} {s : State}
    (h : Reaches cfg entry regs mem n s) : Sound TickStart s :=
  run_induction (fun _ _ hs hstep => (hs.1 (step_next hstep).1).after_step hstep) n _ s
    (.running rfl (launch_tickStart cfg entry regs mem)) h

theorem reaches_zeroRegister {cfg : Config} {entry : Word} {regs : RegFile} {mem : Memory} {n : Nat} {s : State}
    (h : Reaches cfg entry regs mem n s) : ZeroRegister s :=
  run_induction stepKeepsZeroRegister n _ s (launch_zeroRegister cfg entry regs mem) h

section

variable {s : State}

theorem InFlight.busyOwned (hs : InFlight s) : BusyOwned s := by
  intro r hr
  obtain ⟨_, h, e, hd⟩ := hs.busy r hr
  exact ⟨h, robAt_mem e, robAt_tag e, hd⟩

theorem TickStart.pendingProduced (hs : TickStart s) : PendingProduced s := by
  have produced {q : Tag} (hq : Awaited s q) (h0 : q ≠ 0) :
      ∃ h ∈ s.rob, h.tag = q ∧ h.complete = false ∧ h.dest ≠ 0 := by
    obtain ⟨h, e, hd, hc⟩ := hs.announced q hq h0
    exact ⟨h, robAt_mem e, robAt_tag e, by simpa using hc, hd⟩
  exact ⟨fun e he q hq => produced (.inl ⟨e, he, hq⟩),
    fun g hg => produced (.inr ⟨g.tag, g, robAt_of_mem hs.inFlight.order hg, rfl⟩)⟩

theorem InFlight.ownersPresent (hs : InFlight s) : OwnersPresent s := by
  refine ⟨fun e he => ?_, fun l hl => ?_⟩
  · obtain ⟨h, eh, _⟩ := hs.pool_owner he
    exact ⟨h, robAt_mem eh, robAt_tag eh⟩
  · obtain ⟨h, eh, _⟩ := hs.lb_owner hl
    exact ⟨h, robAt_mem eh, robAt_tag eh⟩

end

/-- Settles O16: the strengthened invariant `TickStart` holds at launch and over every step, and gives the five. -/
theorem runInvariants : Obligations.RunInvariants := by
  intro cfg entry regs mem n s _ hreach hr
  have hs := (reaches_tickStart hreach).1 hr
  exact ⟨hs.inFlight.busyOwned, hs.pendingProduced, hs.inFlight.ownersPresent, hs.inFlight.order,
    reaches_zeroRegister hreach⟩

/-- Settles O18: where the invariant holds, every lookup of a tag finds its entry, so a step stops for another reason
only. -/
theorem staleTagUnreachable : Obligations.StaleTagUnreachable := by
  intro cfg entry regs mem n s _ hreach
  by_cases hr : s.status = .running
  · simp [hr]
  · exact (reaches_tickStart hreach).2 hr

end Sys2Proof.Machine
end

section
/-! PROOFS. Memory (20_memory.md): who writes it, its canonical form over a step, reads after writes, and the access
checks. -/

namespace Sys2Proof.Machine

/-! ### Only commit writes the architectural state -/

/-- `u` has the registers, memory and predictor of `s` (20_memory.md R69, R70). -/
structure SameArchitecture (s u : State) : Prop where
  regs : u.regs = s.regs
  mem : u.mem = s.mem
  pred : u.pred = s.pred

theorem SameArchitecture.refl (s : State) : SameArchitecture s s := ⟨rfl, rfl, rfl⟩

theorem SameArchitecture.trans {s u v : State} (h : SameArchitecture s u) (g : SameArchitecture u v) :
    SameArchitecture s v :=
  ⟨g.regs.trans h.regs, g.mem.trans h.mem, g.pred.trans h.pred⟩

theorem BackendOnly.sameArchitecture {s u : State} (h : BackendOnly s u) : SameArchitecture s u :=
  ⟨h.regs, h.mem, h.pred⟩

theorem FrontendOnly.sameArchitecture {s u : State} (h : FrontendOnly s u) : SameArchitecture s u :=
  ⟨h.regs, h.mem, h.pred⟩

theorem issueAs_sameArchitecture (form : IssueForm) (s : State) : SameArchitecture s (issueAs form s) := by
  rcases issueAs_cases form s with ⟨_, he⟩ | ⟨_, _, _, _, _, he⟩ | ⟨_, _, _, _, _, _, _, he⟩
  · rw [he]
    exact .refl s
  · rw [he]
    exact ⟨rfl, rfl, rfl⟩
  · rw [he, claim_eq]
    cases form.pool <;> exact ⟨rfl, rfl, rfl⟩

theorem IssueMove.sameArchitecture {o : Op} {s u : State} (m : IssueMove o s u) : SameArchitecture s u := by
  cases m with
  | issue form => exact issueAs_sameArchitecture form s
  | jalr form =>
    obtain ⟨w, he⟩ := issueJalr_eq form s
    rw [he]
    exact (issueAs_sameArchitecture form s).trans ⟨rfl, rfl, rfl⟩
  | refused => exact ⟨rfl, rfl, rfl⟩

theorem issueStage_sameArchitecture {s u : State} (h : issueStage s = .next u) : SameArchitecture s u := by
  rcases issueStage_cases h with ⟨_, rfl⟩ | ⟨_, _, v, _, m, rfl⟩
  · exact .refl _
  · obtain ⟨hregs, hmem, hpred⟩ := m.sameArchitecture
    exact ⟨hregs, hmem, hpred⟩

/-- Broadcast, execute, issue and fetch leave registers, memory and predictor as commit left them. -/
theorem step_sameArchitecture {s c t : State} (hc : commitStage s = .next c) (h : step s = .next t) :
    SameArchitecture c t := by
  refine (step_induction (C := SameArchitecture c) (B := SameArchitecture c) (X := SameArchitecture c)
    (I := SameArchitecture c) (F := SameArchitecture c) (Q := SameArchitecture c) (S := SameArchitecture c) h
    (fun a ha => .of_both ?commit)
    (fun a b _ sa hb => .of_both (sa.trans (broadcastStage_backendOnly hb).sameArchitecture))
    (fun b x hr sb hx => .of_both (sb.trans (executeStage_backendOnly hr hx).sameArchitecture))
    (fun x d _ sx hd => .of_both (sx.trans (issueStage_sameArchitecture hd)))
    (fun d e _ sd he => .of_both (sd.trans (fetchStage_frontendOnly he).sameArchitecture))
    (fun e _ se => se.trans ⟨rfl, rfl, rfl⟩)).both
  case commit =>
    cases hc.symm.trans ha
    exact .refl _

/-- Settles O9: the four stages behind commit keep the registers, memory and the predictor. -/
theorem onlyCommitWritesArchitecture : Obligations.OnlyCommitWritesArchitecture := by
  intro s c t _ hc h
  obtain ⟨hregs, hmem, hpred⟩ := step_sameArchitecture hc h
  exact ⟨hregs, hmem, hpred⟩

/-! ### The canonical form -/

theorem commitOther_mem (s : State) : (commitOther s).mem = s.mem := by
  unfold commitOther
  split
  · rfl
  · split
    · rfl
    · rw [retire_mem, writeBack_eq]

theorem commitBranch_mem (imm : Word) (s : State) : (commitBranch imm s).mem = s.mem := by
  unfold commitBranch
  split
  · rfl
  · split
    · rfl
    · dsimp only
      split <;> rfl

/-- The commit of a store writes nothing, or the bytes of the head (46_commit.md R372). -/
theorem commitStore_mem (w : Width) (s : State) : (commitStore w s).mem = s.mem ∨
    ∃ h : RobEntry, (commitStore w s).mem = memWrite s.mem h.addr (widthBytes w) h.wb := by
  unfold commitStore
  split
  · exact .inl rfl
  · rename_i h _ _
    split
    · exact .inl rfl
    · split
      · exact .inl rfl
      · split
        · exact .inl rfl
        · exact .inr ⟨h, by rw [retire_mem, writeBack_eq]⟩

/-- The commit of an ECALL writes nothing, or what the dispatcher answers (60_exceptions.md R410). -/
theorem commitSyscall_mem (s : State) : (commitSyscall s).mem = s.mem ∨
    ∃ ws, (commitSyscall s).mem = writeBytes s.mem ws := by
  unfold commitSyscall
  split
  · exact .inl rfl
  · split
    · exact .inl rfl
    · split
      · exact .inr ⟨_, by rw [syscall_squash, squash_mem]⟩
      · exact .inl rfl
      · exact .inl rfl
      · exact .inl rfl

theorem CommitMove.mem_wf {o : Op} {s u : State} (m : CommitMove o s u) (hs : Memory.wf s.mem) : Memory.wf u.mem := by
  cases m with
  | other =>
    rw [commitOther_mem]
    exact hs
  | store w =>
    rcases commitStore_mem w s with he | ⟨h, he⟩ <;> rw [he]
    · exact hs
    · exact memWrite_wf _ _ _ _ hs
  | branch imm =>
    rw [commitBranch_mem]
    exact hs
  | syscall =>
    rcases commitSyscall_mem s with he | ⟨ws, he⟩ <;> rw [he]
    · exact hs
    · exact writeBytes_wf _ _ hs
  | refused => exact hs

/-- The commit stage always answers a next state, and keeps the canonical form of memory. -/
theorem commitStage_mem_wf {s : State} (hs : Memory.wf s.mem) : ∃ c, commitStage s = .next c ∧ Memory.wf c.mem := by
  unfold commitStage
  split
  · exact ⟨s, rfl, hs⟩
  · rename_i h _ _
    obtain ⟨u, hu, he⟩ := execAt_next .commit h.ins.op s
    exact ⟨_, he, (execOp_commit (s := { s with stage := .commit }) rfl hu).mem_wf hs⟩

/-- Settles O11: only commit writes memory, by MemWrite or the dispatcher's bytes, and both keep the form. -/
theorem stepKeepsMemoryCanonical : Obligations.StepKeepsMemoryCanonical := by
  intro s t hs h
  obtain ⟨c, hc, hwf⟩ := commitStage_mem_wf hs
  rw [(step_sameArchitecture hc h).mem]
  exact hwf

/-! ### Reads after writes -/

/-- The address of byte k + 1 of an access, counted from its second byte. -/
theorem add_one_add_ofNat (a : Word) (k : Nat) : a + 1 + BitVec.ofNat 32 k = a + BitVec.ofNat 32 (k + 1) := by
  rw [BitVec.add_assoc, BitVec.add_comm 1, BitVec.ofNat_add]
  rfl

theorem readByte_writeByte_same {m : Memory} (hm : Memory.wf m) (a : Word) (v : Byte) :
    readByte (writeByte m a v) a = v :=
  readCell_writeCell_same m a.toNat v hm.1

theorem readByte_writeByte_other (m : Memory) {a b : Word} (v : Byte) (h : b ≠ a) :
    readByte (writeByte m a v) b = readByte m b :=
  readCell_writeCell_other m a.toNat b.toNat v fun e => h (BitVec.eq_of_toNat_eq e)

/-- MemWrite changes no byte outside its own, whatever its length. -/
theorem readByte_memWrite_other (n : Nat) : ∀ (m : Memory) (a v b : Word), (∀ k < n, b ≠ a + BitVec.ofNat 32 k) →
    readByte (memWrite m a n v) b = readByte m b := by
  induction n with
  | zero => exact fun _ _ _ _ _ => rfl
  | succ n ih =>
    intro m a v b hb
    have later : ∀ k < n, b ≠ a + 1 + BitVec.ofNat 32 k := fun k hk =>
      add_one_add_ofNat a k ▸ hb (k + 1) (Nat.succ_lt_succ hk)
    have first : b ≠ a := by simpa using hb 0 (Nat.succ_pos n)
    exact (ih _ (a + 1) (v >>> 8) b later).trans (readByte_writeByte_other m _ first)

/-- The first byte of an access of up to 2^32 bytes is none of the later ones. -/
theorem ne_add_one_add_ofNat (a : Word) {k : Nat} (hk : k + 1 < 2 ^ 32) : a ≠ a + 1 + BitVec.ofNat 32 k := by
  rw [add_one_add_ofNat]
  intro h
  have hzero : BitVec.ofNat 32 (k + 1) = 0 := by simpa using h.symm
  have hmod : (k + 1) % 2 ^ 32 = 0 := congrArg BitVec.toNat hzero
  omega

theorem extractLsb'_ushiftRight_byte (v : Word) (k : Nat) :
    (v >>> 8).extractLsb' (8 * k) 8 = v.extractLsb' (8 * (k + 1)) 8 := by
  apply BitVec.eq_of_getElem_eq
  intro i hi
  simp only [BitVec.getElem_extractLsb', BitVec.getLsbD_ushiftRight]
  congr 1
  omega

/-- MemWrite puts byte k of the value at a + k, little-endian (20_memory.md R61, R63). -/
theorem readByte_memWrite_same (n : Nat) : ∀ {m : Memory} (a v : Word), Memory.wf m → n ≤ 2 ^ 32 → ∀ k < n,
    readByte (memWrite m a n v) (a + BitVec.ofNat 32 k) = v.extractLsb' (8 * k) 8 := by
  induction n with
  | zero => exact fun _ _ _ _ k hk => absurd hk (Nat.not_lt_zero k)
  | succ n ih =>
    intro m a v hm hn k hk
    cases k with
    | zero =>
      have kept := readByte_memWrite_other n (writeByte m a (v.extractLsb' 0 8)) (a + 1) (v >>> 8) a
        fun k hk => ne_add_one_add_ofNat a (by omega)
      rw [BitVec.add_zero]
      exact kept.trans (readByte_writeByte_same hm a _)
    | succ k =>
      have later := ih (a + 1) (v >>> 8) (writeByte_wf m a (v.extractLsb' 0 8) hm) (by omega) k (by omega)
      rwa [add_one_add_ofNat, extractLsb'_ushiftRight_byte] at later

/-- The bits of MemRead: bit i is bit i mod 8 of the byte at a + i / 8 (R61, R63). -/
theorem getLsbD_memRead (m : Memory) (k : Nat) : ∀ (a : Word) (i : Nat), i < 32 →
    (memRead m a k).getLsbD i = (decide (i < 8 * k) && (readByte m (a + BitVec.ofNat 32 (i / 8))).getLsbD (i % 8)) := by
  induction k with
  | zero => simp [memRead]
  | succ k ih =>
    intro a i hi
    simp only [memRead, BitVec.getLsbD_or, BitVec.getLsbD_setWidth, BitVec.getLsbD_shiftLeft]
    by_cases h8 : i < 8
    · simp [h8, hi, Nat.div_eq_of_lt h8, Nat.mod_eq_of_lt h8, show i < 8 * (k + 1) by omega]
    · obtain ⟨j, rfl⟩ : ∃ j, i = j + 8 := ⟨i - 8, by omega⟩
      have later := ih (a + 1) j (by omega)
      rw [add_one_add_ofNat] at later
      have outside : (readByte m a).getLsbD (j + 8) = false := BitVec.getLsbD_of_ge _ _ (Nat.le_add_left 8 j)
      have div : (j + 8) / 8 = j / 8 + 1 := by omega
      have bound : j + 8 < 8 * (k + 1) ↔ j < 8 * k := by omega
      simpa only [h8, outside, div, bound, hi, decide_true, decide_false, Bool.true_and, Bool.false_and, Bool.and_true,
        Bool.not_false, Bool.false_or, Nat.add_sub_cancel, Nat.add_mod_right] using later

/-- Where the bytes at a are those of a value, MemRead sees the value's low bytes. -/
theorem toNat_memRead_of_bytes {m : Memory} {a v : Word} {k : Nat} (hk : k ≤ 4)
    (hbytes : ∀ j < k, readByte m (a + BitVec.ofNat 32 j) = v.extractLsb' (8 * j) 8) :
    (memRead m a k).toNat = v.toNat % 2 ^ (8 * k) := by
  apply Nat.eq_of_testBit_eq
  intro i
  rw [Nat.testBit_mod_two_pow, BitVec.testBit_toNat, BitVec.testBit_toNat]
  by_cases hi : i < 8 * k
  · rw [getLsbD_memRead m k a i (by omega), hbytes (i / 8) (by omega), BitVec.getLsbD_extractLsb']
    simp [hi, Nat.mod_lt, Nat.div_add_mod]
  · by_cases h32 : i < 32
    · simp [getLsbD_memRead m k a i h32, hi]
    · simp [hi, BitVec.getLsbD_of_ge _ _ (Nat.not_lt.1 h32)]

/-- Settles O19: each byte of a write is read back at its own address, and every other byte is as before. -/
theorem readAfterWrite : Obligations.ReadAfterWrite := by
  intro m a v n
  refine ⟨fun hm hn => ?_, readByte_memWrite_other n m a v⟩
  have bytes := readByte_memWrite_same n a v hm (by omega)
  exact ⟨bytes, fun k hk => toNat_memRead_of_bytes (Nat.le_trans hk hn) fun j hj => bytes j (Nat.lt_of_lt_of_le hj hk)⟩

/-! ### The access checks -/

section

variable {c : Config} {a : Word} {n : Nat}

theorem accessFault_misaligned (h : IsMisaligned c a n) : accessFault c a n = some (.misaligned a) := by
  unfold accessFault
  rw [if_pos (by simpa [aligned] using h)]

theorem accessFault_aligned (h : ¬ IsMisaligned c a n) :
    accessFault c a n = if mappedAll c a n = false then some (.memoryFault a) else none := by
  unfold accessFault
  rw [if_neg (by simpa [aligned] using h)]

theorem accessFault_allowed (h : Allowed c a n) : accessFault c a n = none := by
  rw [accessFault_aligned h.1, if_neg (by simpa using (mappedAll_iff c a n).2 h.2)]

end

/-- Settles O20: alignment is asked first, then every byte's mapping. -/
theorem accessChecks : Obligations.AccessChecks := by
  intro c a n
  refine ⟨accessFault_misaligned, fun haligned hrange => ?_, accessFault_allowed⟩
  rw [accessFault_aligned haligned, if_pos]
  simpa using fun h => hrange ((mappedAll_iff c a n).1 h)

end Sys2Proof.Machine
end

section
/-! PROOFS. The memory unit on known entries: issue where no register is claimed, address generation, the load buffer, the
harvest and commit, each as the whole next state; and a tick put together from its stages. -/

namespace Sys2Proof.Machine

theorem firstWhere_singleton {α : Type} {p : α → Prop} {l : List α} {x : α} (hl : l = [x]) (hx : p x) :
    FirstWhere p l [] x [] :=
  ⟨hl, hx, fun _ hy => absurd hy List.not_mem_nil⟩

/-! ### A tick from its stages -/

/-- A tick whose four back-end stages are known, none of them a stop. -/
theorem backTicks_succ {s a b c d : State} (n : Nat) (hcommit : commitStage s = .next a) (ha : a.status = .running)
    (hbroadcast : broadcastStage a = .next b) (hb : b.status = .running) (hexecute : executeStage b = .next c)
    (hc : c.status = .running) (hissue : issueStage c = .next d) (hd : d.status = .running) :
    backTicks (n + 1) s = backTicks n { d with cycle := d.cycle + 1 } := by
  have before : beforeFetch s = .next d := by
    rw [beforeFetch, hcommit, andThen_running ha, hbroadcast, andThen_running hb, hexecute, andThen_running hc, hissue]
  rw [backTicks, before, andThen_running hd, endTick]
  exact andThen_running hd

/-- Where commit leaves a state that commit would leave alone, the ticks are those of that state. -/
theorem backTicks_of_commit {s a : State} (n : Nat) (hs : commitStage s = .next a) (ha : commitStage a = .next a) :
    backTicks (n + 1) s = backTicks (n + 1) a := by
  rw [backTicks, backTicks, beforeFetch, beforeFetch, hs, ha]

/-- exec at a stage of the tick, by what it leaves besides the model's own `stage`. -/
theorem execAt_exec {p : Stage} {i : Instr} {s u : State}
    (h : exec i { s with stage := p } = .next { u with stage := p }) (hu : u.stage = .fetch) : execAt p (.ins i) s = .next u := by
  rw [execAt, execOp, h, rest, ← hu]

theorem runEntries_single {stageOf : Tag → Stage} {t : Tag} {o : Op} {s u : State}
    (h : execAt (stageOf t) o s = .next u) : runEntries stageOf [(t, o)] s = .next u := by
  rw [runEntries, h, andThen]
  exact ite_self _

/-- A state between two stages with nothing in the ALU and MULDIV pools. -/
structure MemoryOnly (s : State) : Prop where
  running : s.status = .running
  stage : s.stage = .fetch
  rsAlu : s.rsAlu = []
  rsMd : s.rsMd = []

section

variable {s u v : State}

theorem executeStage_memory (hs : MemoryOnly s) (hagu : aguStep s = .next u) (hu : u.status = .running)
    (hlb : lbStep u = .next v) : executeStage s = .next v := by
  have halu : aluStep s = .next s := by rw [aluStep, hs.rsAlu]; rfl
  have hmd : mdStep s = .next s := by rw [mdStep, hs.rsMd]; rfl
  rw [executeStage, halu, andThen_running hs.running, hmd, andThen_running hs.running, hagu, andThen_running hu, hlb]

theorem aguStep_empty (h : s.rsAgu = []) : aguStep s = .next s := by rw [aguStep, h]; rfl

theorem lbStep_empty (h : s.lb = []) : lbStep s = .next s := by rw [lbStep, h]; rfl

theorem issueStage_empty (h : s.iq = []) : issueStage s = .next s := by rw [issueStage, h]

theorem commitStage_empty (h : s.rob = []) : commitStage s = .next s := by rw [commitStage, h]

end

/-! ### The kinds of instructions by their shapes -/

section

variable {i : Instr} {w : Width} {sign : Bool} {rd a b : Reg} {imm : Word}

theorem storeShape_form (h : storeShape i = some (w, a, b, imm)) :
    issueTable i = some (storeForm a b imm) ∧ kindOf i = .store w ∧ isJalr i = false := by
  cases i <;> cases h <;> exact ⟨rfl, rfl, rfl⟩

theorem loadShape_form (h : loadShape i = some (w, sign, rd, a, imm)) :
    issueTable i = some (loadForm a imm rd) ∧ kindOf i = .load ∧ isJalr i = false := by
  cases i <;> cases h <;> exact ⟨rfl, rfl, rfl⟩

theorem storeWidth_of_kind (h : kindOf i = .store w) : storeWidth (.ins i) = some w := by
  simp [storeWidth, opKind, h]

end

/-! ### Issue where no register is claimed -/

section

variable {s : State}

theorem renameRead_free (h : s.rst = clearAll) (r : Reg) : renameRead s r = .slot ⟨readReg s r, 0⟩ := by
  unfold renameRead
  split
  · rename_i hr
    simp [readReg, hr]
  · rw [if_pos (by simp [rstAt, h, clearAll, freeEntry])]

theorem readOperands_store (h : s.rst = clearAll) (pc : Word) (a b : Reg) :
    readOperands s pc (.reg a) (.const 0) (some b) = .slots ⟨readReg s a, 0⟩ ⟨0, 0⟩ ⟨readReg s b, 0⟩ := by
  simp [readOperands, readOperand, renameRead_free h]

theorem readOperands_load (h : s.rst = clearAll) (pc : Word) (a : Reg) :
    readOperands s pc (.reg a) (.const 0) none = .slots ⟨readReg s a, 0⟩ ⟨0, 0⟩ ⟨0, 0⟩ := by
  simp [readOperands, readOperand, renameRead_free h]

/-- An issue into rs_agu whose operands are read. -/
theorem issueAs_agu {form : IssueForm} {r : Decoded} {waiting : List Decoded} {j k d : Slot} (hiq : s.iq = r :: waiting)
    (hpool : form.pool = .agu) (hreads : readOperands s r.pc form.j form.k form.data = .slots j k d) :
    issueAs form s = { s with
      iq := waiting, nextTag := s.nextTag + 1, rob := s.rob ++ [newRobEntry form r s.nextTag d]
      rsAgu := s.rsAgu ++ [newRsEntry form r s.nextTag j k], rst := rstClaimed s form.dest s.nextTag } := by
  unfold issueAs
  rw [hiq]
  dsimp only
  rw [readOperands_pop, hreads, hpool]
  exact claim_eq _ _ _

theorem issueStage_agu {form : IssueForm} {i : Instr} {r : Decoded} {waiting : List Decoded} {j k d : Slot}
    (hs : s.stage = .fetch) (hiq : s.iq = r :: waiting) (hop : r.op = .ins i) (hform : issueTable i = some form)
    (hjalr : isJalr i = false) (hpool : form.pool = .agu)
    (hreads : readOperands s r.pc form.j form.k form.data = .slots j k d) :
    issueStage s = .next { s with
      iq := waiting, nextTag := s.nextTag + 1, rob := s.rob ++ [newRobEntry form r s.nextTag d]
      rsAgu := s.rsAgu ++ [newRsEntry form r s.nextTag j k], rst := rstClaimed s form.dest s.nextTag } := by
  rw [issueStage, hiq]
  dsimp only
  rw [hop]
  refine execAt_exec ?_ hs
  rw [exec_issue rfl hform hjalr]
  exact congrArg _ (issueAs_agu (s := { s with stage := .issue }) hiq hpool hreads)

/-! ### Address generation -/

variable {t : Tag} {before after : List RsEntry} {e : RsEntry}

theorem aguStore_owner {older younger : List RobEntry} {h : RobEntry}
    (hagu : FirstWhere (fun x => Eligible t x ∧ x.progress = 0) s.rsAgu before e after)
    (ho : Owner s t older h younger) :
    aguStore t s = { s with
      rsAgu := before ++ after
      rob := older ++ { h with addr := effectiveAddress e, addrReady := true } :: younger } := by
  unfold aguStore
  rw [(aguEntry_split hagu).1, robAt_owner ho]
  dsimp only
  rw [setAddress, updateRob_owner _ ho]
  exact (aguEntry_split (s := { s with
    rob := older ++ { h with addr := effectiveAddress e, addrReady := true } :: younger }) hagu).2

theorem aguLoad_split (hagu : FirstWhere (fun x => Eligible t x ∧ x.progress = 0) s.rsAgu before e after) :
    aguLoad t s = { s with rsAgu := before ++ after, lb := insertLb (newLbEntry e 0) s.lb } := by
  unfold aguLoad
  rw [(aguEntry_split hagu).1]
  exact (aguEntry_split (s := { s with lb := insertLb (newLbEntry e 0) s.lb }) hagu).2

/-- Address generation on a store, the only entry of rs_agu. -/
theorem aguStep_store {i : Instr} {w : Width} {older younger : List RobEntry} {h : RobEntry} (hs : s.stage = .fetch)
    (hagu : s.rsAgu = [e]) (hready : Eligible e.dest e) (hfresh : e.progress = 0) (hop : e.ins.op = .ins i)
    (hkind : kindOf i = .store w) (ho : Owner s e.dest older h younger) :
    aguStep s = .next { s with
      rsAgu := [], rob := older ++ { h with addr := effectiveAddress e, addrReady := true } :: younger } := by
  rw [aguStep, hagu]
  refine runEntries_single ?_
  rw [hop]
  refine execAt_exec ?_ hs
  rw [exec_execute_store rfl hkind]
  exact congrArg _ (aguStore_owner (s := { s with stage := .execute e.dest }) (before := []) (after := [])
    (firstWhere_singleton hagu ⟨hready, hfresh⟩) ho)

/-- Address generation on a load, the only entry of rs_agu, where the load buffer is empty. -/
theorem aguStep_load {i : Instr} (hs : s.stage = .fetch) (hagu : s.rsAgu = [e]) (hready : Eligible e.dest e)
    (hfresh : e.progress = 0) (hop : e.ins.op = .ins i) (hkind : kindOf i = .load) (hlb : s.lb = []) :
    aguStep s = .next { s with rsAgu := [], lb := [newLbEntry e 0] } := by
  rw [aguStep, hagu]
  refine runEntries_single ?_
  rw [hop]
  refine execAt_exec ?_ hs
  rw [exec_execute_load rfl hkind, aguLoad_split (s := { s with stage := .execute e.dest }) (before := []) (after := [])
    (firstWhere_singleton hagu ⟨hready, hfresh⟩)]
  simp [hlb, insertLb]

end

/-! ### The load buffer -/

/-- One tick of progress of a load that has its value, and at CACHE_LAT the result (43_load_store_amo.md R270, R279). -/
def loadTick (lat : Nat) (w : Width) (sign : Bool) (v : Word) (l : LbEntry) : LbEntry :=
  { l with
    progress := l.progress + 1
    result := if l.progress + 1 = lat then extend w sign v else l.result }

section

variable {s : State} {l m : LbEntry} {w : Width} {sign : Bool} {v : Word} {i : Instr}

theorem setLb_single (hlb : s.lb = [l]) (howner : l.owner = m.owner) : setLb m s = { s with lb := [m] } :=
  setLb_split (before := []) (after := []) (firstWhere_singleton hlb howner)

/-- The load-buffer step behind the scan, for a load whose value was forwarded. -/
theorem lbProceed_forwarded (hlb : s.lb = [l]) (howner : l.owner = m.owner) (hfwd : m.fwd = some v) :
    lbProceed w (finishLoad w sign) m s = { s with lb := [loadTick s.cfg.cacheLat w sign v m] } := by
  have counted := setLb_single (m := { m with progress := m.progress + 1 }) hlb howner
  by_cases hlat : m.progress + 1 = s.cfg.cacheLat
  · have finished := setLb_single (s := { s with lb := [{ m with progress := m.progress + 1 }] })
      (m := { m with progress := m.progress + 1, result := extend w sign v }) rfl rfl
    simp only [lbProceed, hlat, if_true, hfwd, loadTick] at counted finished ⊢
    rw [counted, finishLoad, finished]
  · simp only [lbProceed, hlat, if_false, loadTick, counted]

variable {rd a : Reg} {imm : Word}

/-- The load-buffer step on a load that is cleared, the only entry of the load buffer. -/
theorem lbStep_cleared (hs : s.stage = .fetch) (hlb : s.lb = [l]) (hop : l.ins.op = .ins i)
    (hshape : loadShape i = some (w, sign, rd, a, imm)) (hless : l.progress < s.cfg.cacheLat)
    (hcleared : l.cleared = true) (hfwd : l.fwd = some v) : lbStep s = .next { s with lb := [loadTick s.cfg.cacheLat w sign v l] } := by
  rw [lbStep, hlb]
  refine runEntries_single ?_
  rw [hop]
  refine execAt_exec ?_ hs
  rw [exec_load_load rfl hshape,
    lbAdvance_split (s := { s with stage := .load l.owner }) (before := []) (after := []) (l := l) w _
      (firstWhere_singleton hlb ⟨rfl, hless⟩), if_pos hcleared]
  exact congrArg _ (lbProceed_forwarded (s := { s with stage := .load l.owner }) hlb rfl hfwd)

/-- The load-buffer step on a load, the only entry of the load buffer, to which the scan forwards `v`. -/
theorem lbStep_forwarded (hs : s.stage = .fetch) (hlb : s.lb = [l]) (hop : l.ins.op = .ins i)
    (hshape : loadShape i = some (w, sign, rd, a, imm)) (hless : l.progress < s.cfg.cacheLat)
    (hcleared : l.cleared = false) (hscan : disambiguate s l w = .forward v) :
    lbStep s = .next { s with lb := [loadTick s.cfg.cacheLat w sign v (clearedEntry l (some v))] } := by
  rw [lbStep, hlb]
  refine runEntries_single ?_
  rw [hop]
  refine execAt_exec ?_ hs
  rw [exec_load_load rfl hshape,
    lbAdvance_split (s := { s with stage := .load l.owner }) (before := []) (after := []) (l := l) w _
      (firstWhere_singleton hlb ⟨rfl, hless⟩), if_neg (by simp [hcleared]),
    show disambiguate { s with stage := .load l.owner } l w = .forward v from hscan]
  exact congrArg _ (lbProceed_forwarded (s := { s with stage := .load l.owner }) hlb rfl rfl)

/-- The scan ends at a store in front with the load's address, its value ready, and no narrower than the load
(43_load_store_amo.md R273, R274). -/
theorem disambiguate_forwards {ws : Width} {h g : RobEntry} {younger : List RobEntry} (ho : Owner s l.owner [h] g younger)
    (hw : storeWidth h.ins.op = some ws) (haddr : h.addrReady = true) (hsame : h.addr = l.addr)
    (hvalue : h.valueReady = true) (hwide : widthBytes w ≤ widthBytes ws) :
    disambiguate s l w = .forward (lowBytes w h.wb) := by
  rw [disambiguate_owner w ho, List.reverse_singleton, scanOlder, hw]
  simp [haddr, hsame, hvalue, forwardFrom, hwide]

end

/-! ### Broadcast -/

section

variable {s : State}

theorem broadcastStage_idle (hr : s.status = .running) (h : harvestSet s = []) : broadcastStage s = .next s := by
  simp [broadcastStage, h, harvestAll, hr]

/-- Nothing is harvestable: no LR.W in rs_agu and no load that is done (45_cdb.md R350). -/
theorem MemoryOnly.harvestSet_nil (hs : MemoryOnly s) (hagu : ∀ e ∈ s.rsAgu, isLoadReserved e.ins.op = false)
    (hlb : ∀ l ∈ s.lb, l.progress < s.cfg.cacheLat) : harvestSet s = [] := by
  have agu : s.rsAgu.filter aguDone = [] := List.filter_eq_nil_iff.2 fun e he => by simp [aguDone, hagu e he]
  have lb : s.lb.filter (lbDone s.cfg) = [] := List.filter_eq_nil_iff.2 fun l hl => by simp [lbDone, hlb l hl]
  simp [harvestSet, hs.rsAlu, hs.rsMd, agu, lb]

/-- Messages that no slot awaits change nothing. -/
theorem MemoryOnly.deliverAll_unheard {h : RobEntry} (hs : MemoryOnly s) (hagu : s.rsAgu = []) (hrob : s.rob = [h])
    (ms : List CdbMsg) (hms : ∀ m ∈ ms, h.storeQ ≠ m.tag) : ms.foldl deliver s = s := by
  induction ms with
  | nil => rfl
  | cons m ms ih =>
    have unheard : deliver s m = s := by
      have alu : s.rsAlu.map (resolveRs m) = s.rsAlu := by rw [hs.rsAlu]; rfl
      have md : s.rsMd.map (resolveRs m) = s.rsMd := by rw [hs.rsMd]; rfl
      have agu : s.rsAgu.map (resolveRs m) = s.rsAgu := by rw [hagu]; rfl
      have rob : s.rob.map (resolveRob m) = s.rob := by simp [hrob, resolveRob, hms m List.mem_cons_self]
      rw [deliver, alu, md, agu, rob]
    rw [List.foldl_cons, unheard]
    exact ih fun m' hm' => hms m' (List.mem_cons_of_mem _ hm')

/-- The broadcast of a load that is done and alone in the core: its entry is complete. -/
theorem MemoryOnly.broadcastStage_load {l : LbEntry} {h : RobEntry} (hs : MemoryOnly s) (hagu : s.rsAgu = [])
    (hlb : s.lb = [l]) (hdone : s.cfg.cacheLat ≤ l.progress) (hrob : s.rob = [h]) (howner : l.owner = h.tag)
    (hkind : isSyscall h.ins.op = false) (hdata : h.storeQ ≠ h.tag) :
    broadcastStage s = .next { s with lb := [], rob := [{ h with complete := true, result := l.result }] } := by
  have done : lbDone s.cfg l = true := by simp [lbDone, hdone]
  have harvest : harvestSet s = [⟨.lb, h.tag, l.result⟩] := by
    simp [harvestSet, hs.rsAlu, hs.rsMd, hagu, hlb, done, howner]
  have removed : removeHarvested ⟨.lb, h.tag, l.result⟩ s = { s with lb := [] } := by
    simp [removeHarvested, hlb, howner, done]
  have found : robAt { s with lb := [] } h.tag = some h := robAt_head hrob
  have marked : updateRob h.tag (markEntry l.result) { s with lb := [] } =
      { s with lb := [], rob := [{ h with complete := true, result := l.result }] } := by
    simp [updateRob, updateFirst, hrob, markEntry, hkind]
  have harvested : harvestAll (harvestSet s) s [] =
      ({ s with lb := [], rob := [{ h with complete := true, result := l.result }] },
        messageOf h ⟨.lb, h.tag, l.result⟩) := by
    rw [harvest, harvestAll, removed]
    dsimp only
    rw [found]
    dsimp only
    rw [marked]
    rfl
  rw [broadcastStage, harvested]
  dsimp only
  rw [if_pos hs.running]
  have after : MemoryOnly { s with lb := [], rob := [{ h with complete := true, result := l.result }] } :=
    ⟨hs.running, hs.stage, hs.rsAlu, hs.rsMd⟩
  exact congrArg _ (after.deliverAll_unheard hagu rfl _ fun m hm he => hdata (he.trans (messageOf_tag hm)))

end

/-! ### Commit -/

section

variable {s : State} {h : RobEntry} {younger : List RobEntry} {i : Instr} {w : Width}

theorem commitStage_exec {u : State} (hrob : s.rob = h :: younger) (hop : h.ins.op = .ins i)
    (he : exec i { s with stage := .commit } = .next { u with stage := .commit }) (hu : u.stage = .fetch) :
    commitStage s = .next u := by
  rw [commitStage, hrob]
  dsimp only
  rw [hop]
  exact execAt_exec he hu

/-- A load at the head waits for its result (46_commit.md R376). -/
theorem commitStage_load_waits (hs : s.stage = .fetch) (hrob : s.rob = h :: younger) (hop : h.ins.op = .ins i)
    (hkind : kindOf i = .load) (hc : h.complete = false) : commitStage s = .next s := by
  refine commitStage_exec hrob hop ?_ hs
  rw [exec_commit_other rfl (.inr (.inr (.inr (.inl hkind))))]
  simp [commitOther, hrob, hc]

/-- A complete load at the head writes its register and leaves (R376, R377). -/
theorem commitStage_load_retires (hs : s.stage = .fetch) (hrob : s.rob = h :: younger) (hop : h.ins.op = .ins i)
    (hkind : kindOf i = .load) (hc : h.complete = true) :
    commitStage s = .next { s with
      regs := regsWith s h.dest h.result, rst := rstReleased s h.dest h.tag, rob := younger } := by
  refine commitStage_exec hrob hop ?_ hs
  rw [exec_commit_other rfl (.inr (.inr (.inr (.inl hkind))))]
  simp [commitOther, hrob, hc, writeBack_eq, retire, regsWith, rstReleased]

/-- A store at the head waits for its address (R372). -/
theorem commitStage_store_waits (hs : s.stage = .fetch) (hrob : s.rob = h :: younger) (hop : h.ins.op = .ins i)
    (hkind : kindOf i = .store w) (haddr : h.addrReady = false) : commitStage s = .next s := by
  refine commitStage_exec hrob hop ?_ hs
  rw [exec_commit_store rfl (storeWidth_of_kind hkind)]
  simp [commitStore, hrob, haddr]

/-- The latency tick of a store at the head (R372). -/
theorem commitStage_store_holds (hs : s.stage = .fetch) (hrob : s.rob = h :: younger) (hop : h.ins.op = .ins i)
    (hkind : kindOf i = .store w) (haddr : h.addrReady = true) (hvalue : h.valueReady = true) (hp : h.progress = 0) :
    commitStage s = .next { s with rob := { h with progress := 1 } :: younger } := by
  refine commitStage_exec hrob hop ?_ hs
  rw [exec_commit_store rfl (storeWidth_of_kind hkind)]
  simp [commitStore, hrob, haddr, hvalue, hp]

/-- A store at the head writes memory and leaves (R372). -/
theorem commitStage_store_writes (hs : s.stage = .fetch) (hrob : s.rob = h :: younger) (hop : h.ins.op = .ins i)
    (hkind : kindOf i = .store w) (haddr : h.addrReady = true) (hvalue : h.valueReady = true) (hp : h.progress ≠ 0)
    (hallowed : Allowed s.cfg h.addr (widthBytes w)) (hdest : h.dest = 0) :
    commitStage s = .next { s with mem := memWrite s.mem h.addr (widthBytes w) h.wb, rob := younger } := by
  refine commitStage_exec hrob hop ?_ hs
  rw [exec_commit_store rfl (storeWidth_of_kind hkind)]
  simp [commitStore, hrob, haddr, hvalue, hp, accessFault_allowed hallowed, writeBack_eq, retire, regsWith, rstReleased,
    hdest]

end

end Sys2Proof.Machine
end

section
/-! PROOFS. A store and a load from its address behind it, tick by tick (20_memory.md R71). -/

namespace Sys2Proof.Machine

/-! ### The forwarded value -/

/-- The low bytes of a word, extended, are what a load of that width makes of the word (43_load_store_amo.md R274, R279). -/
theorem extend_lowBytes (w : Width) (sign : Bool) (v : Word) : extend w sign (lowBytes w v) = loadedValue w sign v := by
  have low (x : Word) (n : Nat) : x.extractLsb' 0 n = BitVec.ofNat n x.toNat := rfl
  have again (n : Nat) (hn : n ≤ 32) : ((v.extractLsb' 0 n).setWidth 32).extractLsb' 0 n = BitVec.ofNat n v.toNat := by
    rw [low, low, BitVec.ofNat_toNat, BitVec.setWidth_setWidth_of_le _ hn, BitVec.setWidth_eq]
  have unsigned (n : Nat) (hn : n ≤ 32) : (BitVec.ofNat n v.toNat).setWidth 32 = BitVec.ofNat 32 (v.toNat % 2 ^ n) := by
    apply BitVec.eq_of_toNat_eq
    simp
  cases w with
  | byte =>
    cases sign with
    | true => exact congrArg (BitVec.signExtend 32) (again 8 (by omega))
    | false => exact (congrArg (BitVec.setWidth 32) (again 8 (by omega))).trans (unsigned 8 (by omega))
  | half =>
    cases sign with
    | true => exact congrArg (BitVec.signExtend 32) (again 16 (by omega))
    | false => exact (congrArg (BitVec.setWidth 32) (again 16 (by omega))).trans (unsigned 16 (by omega))
  | word => rfl

/-- A claim that is released again leaves the table free. -/
theorem rstReleased_of_claimed {s u : State} {r : Reg} {t q : Tag} (hs : s.rst = clearAll)
    (hu : u.rst = rstClaimed s r q) (hq : q = t) : rstReleased u r t = clearAll := by
  subst hq
  by_cases hr : r = 0
  · rw [rstReleased, if_neg (fun h => h.1 hr), hu, rstClaimed, if_pos hr, hs]
  · have claimed : u.rst = clearAll.set r.toNat ⟨true, q⟩ r.isLt := by rw [hu, rstClaimed, if_neg hr, hs]
    rw [rstReleased, if_pos ⟨hr, by simp [claimed]⟩, claimed]
    apply Vector.ext
    intro j hj
    simp [clearAll, freeEntry]

/-! ### A load that has its value -/

/-- In the core is one load, which has `v` forwarded and is at the head of the reorder buffer. -/
structure LoadForwarded (s : State) (h : RobEntry) (l : LbEntry) (w : Width) (sign : Bool) (v : Word) : Prop where
  only : MemoryOnly s
  iq : s.iq = []
  rsAgu : s.rsAgu = []
  rob : s.rob = [h]
  lb : s.lb = [l]
  shape : ∃ i rd a imm, h.ins.op = .ins i ∧ l.ins.op = .ins i ∧ loadShape i = some (w, sign, rd, a, imm)
  owner : l.owner = h.tag
  data : h.storeQ ≠ h.tag
  incomplete : h.complete = false
  cleared : l.cleared = true
  fwd : l.fwd = some v
  done : l.progress = s.cfg.cacheLat → l.result = extend w sign v

section

variable {s : State} {h : RobEntry} {l : LbEntry} {w : Width} {sign : Bool} {v : Word}

/-- The units have nothing to do, and nothing is left to issue. -/
theorem backTicks_succ_idle {a b : State} (n : Nat) (hcommit : commitStage s = .next a) (ha : a.status = .running)
    (hbroadcast : broadcastStage a = .next b) (hb : MemoryOnly b) (hagu : b.rsAgu = []) (hlb : b.lb = [])
    (hiq : b.iq = []) : backTicks (n + 1) s = backTicks n { b with cycle := b.cycle + 1 } :=
  backTicks_succ n hcommit ha hbroadcast hb.running
    (executeStage_memory hb (aguStep_empty hagu) hb.running (lbStep_empty hlb)) hb.running (issueStage_empty hiq) hb.running

theorem LoadForwarded.commit_waits (hl : LoadForwarded s h l w sign v) : commitStage s = .next s := by
  obtain ⟨i, _, _, _, hop, _, hshape⟩ := hl.shape
  exact commitStage_load_waits hl.only.stage hl.rob hop (loadShape_form hshape).2.1 hl.incomplete

/-- A tick of a load that is not done. -/
theorem LoadForwarded.tick (hl : LoadForwarded s h l w sign v) (hless : l.progress < s.cfg.cacheLat) (n : Nat) :
    backTicks (n + 1) s =
      backTicks n { s with lb := [loadTick s.cfg.cacheLat w sign v l], cycle := s.cycle + 1 } := by
  obtain ⟨i, _, _, _, _, hop, hshape⟩ := hl.shape
  have harvest : harvestSet s = [] :=
    hl.only.harvestSet_nil (by simp [hl.rsAgu]) (by simpa [hl.lb] using hless)
  exact backTicks_succ n hl.commit_waits hl.only.running (broadcastStage_idle hl.only.running harvest) hl.only.running
    (executeStage_memory hl.only (aguStep_empty hl.rsAgu) hl.only.running
      (lbStep_cleared hl.only.stage hl.lb hop hshape hless hl.cleared hl.fwd))
    hl.only.running (issueStage_empty hl.iq) hl.only.running

theorem LoadForwarded.after_tick (hl : LoadForwarded s h l w sign v) : LoadForwarded
    { s with lb := [loadTick s.cfg.cacheLat w sign v l], cycle := s.cycle + 1 } h (loadTick s.cfg.cacheLat w sign v l)
    w sign v where
  only := ⟨hl.only.running, hl.only.stage, hl.only.rsAlu, hl.only.rsMd⟩
  iq := hl.iq
  rsAgu := hl.rsAgu
  rob := hl.rob
  lb := rfl
  shape := hl.shape
  owner := hl.owner
  data := hl.data
  incomplete := hl.incomplete
  cleared := hl.cleared
  fwd := hl.fwd
  done := fun hp => if_pos hp

/-- The two last ticks of a load that is done: broadcast, then commit. -/
theorem LoadForwarded.last_ticks (hl : LoadForwarded s h l w sign v) (hdone : l.progress = s.cfg.cacheLat) :
    backTicks 2 s = .next { s with
      regs := regsWith s h.dest (extend w sign v), rst := rstReleased s h.dest h.tag, rob := [], lb := []
      cycle := s.cycle + 2 } := by
  obtain ⟨i, _, _, _, hop, _, hshape⟩ := hl.shape
  have hkind := (loadShape_form hshape).2.1
  have harvested := hl.only.broadcastStage_load hl.rsAgu hl.lb (Nat.le_of_eq hdone.symm) hl.rob hl.owner
    (by simp [isSyscall, opKind, hop, hkind]) hl.data
  have only (u : State) (hstatus : u.status = s.status) (hstage : u.stage = s.stage) (halu : u.rsAlu = s.rsAlu)
      (hmd : u.rsMd = s.rsMd) : MemoryOnly u :=
    ⟨hstatus.trans hl.only.running, hstage.trans hl.only.stage, halu.trans hl.only.rsAlu, hmd.trans hl.only.rsMd⟩
  rw [backTicks_succ_idle 1 hl.commit_waits hl.only.running harvested (only _ rfl rfl rfl rfl) hl.rsAgu rfl hl.iq]
  have retired := commitStage_load_retires
    (s := { s with
      lb := [], rob := [{ h with complete := true, result := l.result }], cycle := s.cycle + 1 })
    hl.only.stage rfl hop hkind rfl
  have left := only { s with
    regs := regsWith s h.dest l.result, rst := rstReleased s h.dest h.tag, rob := [], lb := []
    cycle := s.cycle + 1 } rfl rfl rfl rfl
  have silent := left.harvestSet_nil (by simp [hl.rsAgu]) (by simp)
  rw [backTicks_succ_idle 0 retired hl.only.running (broadcastStage_idle left.running silent) left hl.rsAgu rfl hl.iq,
    ← hl.done hdone]
  rfl

/-- A load that has its value retires two ticks after its last tick in the load buffer. -/
theorem LoadForwarded.retires (n : Nat) : ∀ {s : State} {l : LbEntry}, LoadForwarded s h l w sign v →
    l.progress + n = s.cfg.cacheLat →
    backTicks (n + 2) s = .next { s with
      regs := regsWith s h.dest (extend w sign v), rst := rstReleased s h.dest h.tag, rob := [], lb := []
      cycle := s.cycle + (n + 2) } := by
  induction n with
  | zero => exact fun hl hp => hl.last_ticks hp
  | succ n ih =>
    intro s l hl hp
    have later := ih hl.after_tick (show l.progress + 1 + n = s.cfg.cacheLat by omega)
    rw [show n + 1 + 2 = n + 2 + 1 by omega, hl.tick (by omega), later,
      show s.cycle + (n + 2 + 1) = s.cycle + 1 + (n + 2) by omega]
    rfl

end

/-! ### The pair -/

/-- A store and a load behind it. -/
structure StoreLoad where
  store : Decoded
  load : Decoded
  storeIns : Instr
  loadIns : Instr
  storeWidth : Width
  loadWidth : Width
  storeBase : Reg
  data : Reg
  dest : Reg
  loadBase : Reg
  storeImm : Word
  loadImm : Word
  sign : Bool

/-- The premises of StoreThenLoadForwards: the pair is about to issue in a quiet state, with one address and the load no
wider, the access allowed. -/
structure StoreLoad.Meets (p : StoreLoad) (s : State) : Prop where
  quiet : Quiet s
  latency : 1 ≤ s.cfg.cacheLat
  iq : s.iq = [p.store, p.load]
  storeOp : p.store.op = .ins p.storeIns
  loadOp : p.load.op = .ins p.loadIns
  storeShape : storeShape p.storeIns = some (p.storeWidth, p.storeBase, p.data, p.storeImm)
  loadShape : loadShape p.loadIns = some (p.loadWidth, p.sign, p.dest, p.loadBase, p.loadImm)
  address : readReg s p.loadBase + p.loadImm = readReg s p.storeBase + p.storeImm
  wide : widthBytes p.loadWidth ≤ widthBytes p.storeWidth
  allowed : Allowed s.cfg (readReg s p.storeBase + p.storeImm) (widthBytes p.storeWidth)

section

variable (p : StoreLoad) (s : State)

/-- The address of both accesses. -/
def StoreLoad.address : Word := readReg s p.storeBase + p.storeImm

/-- The store's reorder-buffer entry as it issues. -/
def StoreLoad.storeEntry : RobEntry :=
  newRobEntry (storeForm p.storeBase p.data p.storeImm) p.store s.nextTag ⟨readReg s p.data, 0⟩

/-- The same with its address. -/
def StoreLoad.addressedStore : RobEntry := { p.storeEntry s with addr := p.address s, addrReady := true }

/-- The load's reorder-buffer entry. -/
def StoreLoad.loadEntry : RobEntry :=
  newRobEntry (loadForm p.loadBase p.loadImm p.dest) p.load (s.nextTag + 1) ⟨0, 0⟩

/-- The two entries of rs_agu. -/
def StoreLoad.storeStation : RsEntry :=
  newRsEntry (storeForm p.storeBase p.data p.storeImm) p.store s.nextTag ⟨readReg s p.storeBase, 0⟩ ⟨0, 0⟩

def StoreLoad.loadStation : RsEntry :=
  newRsEntry (loadForm p.loadBase p.loadImm p.dest) p.load (s.nextTag + 1) ⟨readReg s p.loadBase, 0⟩ ⟨0, 0⟩

/-- The load's load-buffer entry after its first tick, the stored value forwarded. -/
def StoreLoad.forwardedLoad : LbEntry :=
  loadTick s.cfg.cacheLat p.loadWidth p.sign (lowBytes p.loadWidth (readReg s p.data))
    (clearedEntry (newLbEntry (p.loadStation s) 0) (some (lowBytes p.loadWidth (readReg s p.data))))

/-- After the first tick: the store has issued. -/
def StoreLoad.storeIssued : State :=
  { s with
    iq := [p.load], nextTag := s.nextTag + 1, cycle := s.cycle + 1, rob := [p.storeEntry s]
    rsAgu := [p.storeStation s] }

/-- After the second: the store has its address and the load has issued. -/
def StoreLoad.loadIssued : State :=
  { s with
    iq := [], nextTag := s.nextTag + 2, cycle := s.cycle + 2, rob := [p.addressedStore s, p.loadEntry s]
    rsAgu := [p.loadStation s], rst := rstClaimed s p.dest (s.nextTag + 1) }

/-- Within the third: the store has had its latency tick at commit. -/
def StoreLoad.storeHeld : State :=
  { p.loadIssued s with rob := [{ p.addressedStore s with progress := 1 }, p.loadEntry s] }

/-- And address generation has moved the load to the load buffer. -/
def StoreLoad.loadGenerated : State := { p.storeHeld s with rsAgu := [], lb := [newLbEntry (p.loadStation s) 0] }

/-- After the third tick: the load has the store's value. -/
def StoreLoad.loadForwarded : State := { p.loadGenerated s with lb := [p.forwardedLoad s], cycle := s.cycle + 3 }

/-- The same once the commit of the fourth tick has written memory. -/
def StoreLoad.storeCommitted : State :=
  { p.loadForwarded s with
    rob := [p.loadEntry s]
    mem := memWrite s.mem (p.address s) (widthBytes p.storeWidth) (readReg s p.data) }

end

namespace StoreLoad.Meets

variable {p : StoreLoad} {s : State}

theorem only (hp : p.Meets s) {u : State} (hstatus : u.status = s.status) (hstage : u.stage = s.stage)
    (halu : u.rsAlu = s.rsAlu) (hmd : u.rsMd = s.rsMd) : MemoryOnly u := by
  obtain ⟨hr, hst, _, ha, hm, _⟩ := hp.quiet
  exact ⟨hstatus.trans hr, hstage.trans hst, halu.trans ha, hmd.trans hm⟩

theorem rst (hp : p.Meets s) : s.rst = clearAll := by
  obtain ⟨_, _, _, _, _, _, _, hrst, _⟩ := hp.quiet
  exact hrst

theorem rob (hp : p.Meets s) : s.rob = [] := by
  obtain ⟨_, _, hrob, _⟩ := hp.quiet
  exact hrob

theorem rsAgu (hp : p.Meets s) : s.rsAgu = [] := by
  obtain ⟨_, _, _, _, _, hagu, _⟩ := hp.quiet
  exact hagu

theorem lb (hp : p.Meets s) : s.lb = [] := by
  obtain ⟨_, _, _, _, _, _, hlb, _⟩ := hp.quiet
  exact hlb

/-- The first tick: the store issues. -/
theorem first_tick (hp : p.Meets s) (n : Nat) : backTicks (n + 1) s = backTicks n (p.storeIssued s) := by
  obtain ⟨hform, _, hjalr⟩ := storeShape_form hp.storeShape
  have hm : MemoryOnly s := hp.only rfl rfl rfl rfl
  have silent := hm.harvestSet_nil (by simp [hp.rsAgu]) (by simp [hp.lb])
  have issued := issueStage_agu hm.stage hp.iq hp.storeOp hform hjalr rfl
    (readOperands_store hp.rst p.store.pc p.storeBase p.data)
  rw [backTicks_succ n (commitStage_empty hp.rob) hm.running (broadcastStage_idle hm.running silent) hm.running
    (executeStage_memory hm (aguStep_empty hp.rsAgu) hm.running (lbStep_empty hp.lb)) hm.running issued hm.running,
    hp.rob, hp.rsAgu]
  rfl

/-- The second tick: address generation for the store, and the load issues. -/
theorem second_tick (hp : p.Meets s) (n : Nat) :
    backTicks (n + 1) (p.storeIssued s) = backTicks n (p.loadIssued s) := by
  obtain ⟨_, hstore, _⟩ := storeShape_form hp.storeShape
  obtain ⟨hform, _, hjalr⟩ := loadShape_form hp.loadShape
  have hm : MemoryOnly (p.storeIssued s) := hp.only rfl rfl rfl rfl
  have waits : commitStage (p.storeIssued s) = .next (p.storeIssued s) :=
    commitStage_store_waits hm.stage rfl hp.storeOp hstore rfl
  have silent : harvestSet (p.storeIssued s) = [] :=
    hm.harvestSet_nil
      (by simp [storeIssued, storeStation, newRsEntry, isLoadReserved, opKind, hp.storeOp, hstore])
      (by simp [storeIssued, hp.lb])
  have addressed := aguStep_store (s := p.storeIssued s) (older := []) (younger := []) (h := p.storeEntry s) hm.stage rfl
    ⟨rfl, rfl, rfl⟩ rfl hp.storeOp hstore (firstWhere_singleton rfl rfl)
  have issued := issueStage_agu (s := { p.storeIssued s with rsAgu := [], rob := [p.addressedStore s] }) hm.stage rfl
    hp.loadOp hform hjalr rfl
    (readOperands_load (s := { p.storeIssued s with rsAgu := [], rob := [p.addressedStore s] }) hp.rst p.load.pc _)
  exact backTicks_succ n waits hm.running (broadcastStage_idle hm.running silent) hm.running
    (executeStage_memory hm addressed hm.running (lbStep_empty hp.lb)) hm.running issued hm.running

/-- The third tick: the store's latency tick, and the load takes the store's value. -/
theorem third_tick (hp : p.Meets s) (n : Nat) :
    backTicks (n + 1) (p.loadIssued s) = backTicks n (p.loadForwarded s) := by
  obtain ⟨_, hstore, _⟩ := storeShape_form hp.storeShape
  obtain ⟨_, hload, _⟩ := loadShape_form hp.loadShape
  have hm : MemoryOnly (p.loadIssued s) := hp.only rfl rfl rfl rfl
  have holds : commitStage (p.loadIssued s) = .next (p.storeHeld s) :=
    commitStage_store_holds hm.stage rfl hp.storeOp hstore rfl rfl rfl
  have held : MemoryOnly (p.storeHeld s) := hp.only rfl rfl rfl rfl
  have silent : harvestSet (p.storeHeld s) = [] :=
    held.harvestSet_nil
      (by simp [storeHeld, loadIssued, loadStation, newRsEntry, isLoadReserved, opKind, hp.loadOp, hload])
      (by simp [storeHeld, loadIssued, hp.lb])
  have generated : aguStep (p.storeHeld s) = .next (p.loadGenerated s) :=
    aguStep_load held.stage (e := p.loadStation s) rfl ⟨rfl, rfl, rfl⟩ rfl hp.loadOp hload hp.lb
  have scan := disambiguate_forwards (s := p.loadGenerated s) (l := newLbEntry (p.loadStation s) 0)
    (h := { p.addressedStore s with progress := 1 }) (g := p.loadEntry s) (younger := []) (w := p.loadWidth)
    (ws := p.storeWidth)
    ⟨rfl, rfl, by simp [addressedStore, storeEntry, newRobEntry, newLbEntry, loadStation, newRsEntry]⟩
    ((congrArg _ hp.storeOp).trans (storeWidth_of_kind hstore)) rfl hp.address.symm rfl hp.wide
  have forwarded := lbStep_forwarded (s := p.loadGenerated s) (sign := p.sign) hm.stage rfl hp.loadOp hp.loadShape
    hp.latency rfl scan
  exact backTicks_succ n holds hm.running (broadcastStage_idle hm.running silent) hm.running
    (executeStage_memory held generated hm.running forwarded) hm.running (issueStage_empty rfl) hm.running

/-- The commit of the fourth tick writes the store's bytes. -/
theorem commit_store (hp : p.Meets s) : commitStage (p.loadForwarded s) = .next (p.storeCommitted s) := by
  obtain ⟨_, hstore, _⟩ := storeShape_form hp.storeShape
  have hm : MemoryOnly (p.loadForwarded s) := hp.only rfl rfl rfl rfl
  exact commitStage_store_writes hm.stage rfl hp.storeOp hstore rfl rfl Nat.one_ne_zero hp.allowed rfl

theorem load_forwarded (hp : p.Meets s) : LoadForwarded (p.storeCommitted s) (p.loadEntry s) (p.forwardedLoad s)
    p.loadWidth p.sign (lowBytes p.loadWidth (readReg s p.data)) where
  only := hp.only rfl rfl rfl rfl
  iq := rfl
  rsAgu := rfl
  rob := rfl
  lb := rfl
  shape := ⟨_, _, _, _, hp.loadOp, hp.loadOp, hp.loadShape⟩
  owner := rfl
  data := (Nat.succ_ne_zero s.nextTag).symm
  incomplete := rfl
  cleared := rfl
  fwd := rfl
  done := fun h => if_pos h

/-- The fourth tick and the rest: the store commits, the load goes on to its own commit. -/
theorem last_ticks (hp : p.Meets s) : backTicks (s.cfg.cacheLat + 1) (p.loadForwarded s) = .next { s with
    regs := regsWith s p.dest (loadedValue p.loadWidth p.sign (readReg s p.data))
    iq := [], nextTag := s.nextTag + 2, cycle := s.cycle + (s.cfg.cacheLat + 4)
    mem := memWrite s.mem (p.address s) (widthBytes p.storeWidth) (readReg s p.data) } := by
  obtain ⟨m, hm⟩ : ∃ m, s.cfg.cacheLat = m + 1 := ⟨s.cfg.cacheLat - 1, by have := hp.latency; omega⟩
  have hl := hp.load_forwarded
  have retired := hl.retires m (show 1 + m = s.cfg.cacheLat by omega)
  have free : rstReleased (p.storeCommitted s) p.dest (s.nextTag + 1) = clearAll :=
    rstReleased_of_claimed hp.rst rfl rfl
  rw [backTicks_of_commit s.cfg.cacheLat hp.commit_store hl.commit_waits, hm, retired, extend_lowBytes,
    show (p.loadEntry s).tag = s.nextTag + 1 from rfl, show (p.loadEntry s).dest = p.dest from rfl, free,
    show s.cycle + (m + 1 + 4) = s.cycle + 3 + (m + 2) by omega]
  simp only [storeCommitted, loadForwarded, loadGenerated, storeHeld, loadIssued, hp.rst, hp.rob, hp.rsAgu, hp.lb]
  rfl

end StoreLoad.Meets

/-- Settles O57: the load finds the store in front of it in the reorder buffer and takes its value, whether or not the
store has written memory by the time the load is done. -/
theorem storeThenLoadForwards : Obligations.StoreThenLoadForwards := by
  intro s r1 r2 i1 i2 ws wl a1 b1 rd a2 imm1 imm2 sign hq ⟨_, _, hlat⟩ hiq hop1 hop2 hshape1 hshape2 haddr hwide
    hallowed
  have hp : StoreLoad.Meets ⟨r1, r2, i1, i2, ws, wl, a1, b1, rd, a2, imm1, imm2, sign⟩ s :=
    ⟨hq, hlat, hiq, hop1, hop2, hshape1, hshape2, haddr, hwide, hallowed⟩
  rw [hp.first_tick, hp.second_tick, hp.third_tick, hp.last_ticks, writeReg_eq]
  rfl

end Sys2Proof.Machine
end

section
/-! PROOFS. The tick from its five stages (40_cycle_issue_rename.md R130 to R135): in which order they run, that each of
them answers, and that only the end of the tick counts the cycle. -/

namespace Sys2Proof.Machine

/-! ### A step from its stages -/

section

variable {s p : State}

theorem andThen_assoc (o : Out) (f g : State → Out) :
    andThen (andThen o f) g = andThen o fun s => andThen (f s) g := by
  rcases o with s | _ | _
  · by_cases hs : s.status = .running
    · simp [hs]
    · simp [hs]
  · rfl
  · rfl

/-- A second part is asked only of states in which the run goes on. -/
theorem andThen_congr {o : Out} {f g : State → Out} (h : ∀ s, s.status = .running → f s = g s) :
    andThen o f = andThen o g := by
  rcases o with s | _ | _
  · by_cases hs : s.status = .running
    · simp [hs, h s hs]
    · simp [hs]
  · rfl
  · rfl

theorem step_running (hs : s.status = .running) : step s = tick s := by
  rw [step, hs]

/-- R130: the five stages in turn, each while the run goes on, then the clock. -/
theorem step_eq_stages (hs : s.status = .running) : step s =
    andThen (commitStage s) fun a => andThen (broadcastStage a) fun b => andThen (executeStage b) fun c =>
      andThen (issueStage c) fun d => andThen (fetchStage d) endTick := by
  rw [step_running hs, tick, beforeFetch]
  simp only [andThen_assoc]

theorem step_of_beforeFetch (hs : s.status = .running) (hb : beforeFetch s = .next p) (hp : p.status = .running) :
    step s = andThen (fetchStage p) endTick := by
  rw [step_running hs, tick, hb, andThen_running hp]

/-- Where nothing is in flight, the four stages before fetch find nothing to do. -/
theorem beforeFetch_quiet (hs : Quiet s) (hiq : s.iq = []) : beforeFetch s = .next s := by
  obtain ⟨hr, hst, hrob, halu, hmd, hagu, hlb, _⟩ := hs
  have hm : MemoryOnly s := ⟨hr, hst, halu, hmd⟩
  have silent := hm.harvestSet_nil (by simp [hagu]) (by simp [hlb])
  rw [beforeFetch, commitStage_empty hrob, andThen_running hr, broadcastStage_idle hr silent, andThen_running hr,
    executeStage_memory hm (aguStep_empty hagu) hr (lbStep_empty hlb), andThen_running hr, issueStage_empty hiq]

/-- Calling exec for an instruction of the table is exec at that stage, which is then put back to rest. -/
theorem execAt_ins (p : Stage) (i : Instr) (s : State) :
    execAt p (.ins i) s = rest (exec i { s with stage := p }) := rfl

theorem commitStage_cons {h : RobEntry} {younger : List RobEntry} (hrob : s.rob = h :: younger) :
    commitStage s = execAt .commit h.ins.op s := by
  rw [commitStage, hrob]

theorem issueStage_cons {r : Decoded} {waiting : List Decoded} (hiq : s.iq = r :: waiting) :
    issueStage s = execAt .issue r.op s := by
  rw [issueStage, hiq]

/-- R320: with no JALR awaited, fetch works at pc. -/
theorem fetchStage_here (hw : s.jalrWait = .none) : fetchStage s = fetchHere s := by
  rw [fetchStage, hw]

/-- R321, R322: a readable word that decodes runs its instruction. -/
theorem fetchHere_ins {i : Instr} (ha : Allowed s.cfg s.pc 4) (hd : decodeWord (memRead s.mem s.pc 4) = .ok i) :
    fetchHere s = execAt .fetch (.ins i) s := by
  rw [fetchHere, accessFault_allowed ha]
  dsimp only
  rw [fetchedWord, hd]

theorem FetchMove.stage {u : State} (m : FetchMove s u) : u.stage = s.stage := by
  cases m <;> rfl

/-- At the fetch stage the model's own `stage` is at rest before and after. -/
theorem rest_exec_fetch (i : Instr) (hs : s.stage = .fetch) :
    rest (exec i { s with stage := .fetch }) = exec i s := by
  obtain ⟨u, hu⟩ := exec_next i s
  have hstage : u.stage = .fetch := (execOp_fetch (o := .ins i) hs hu).stage.trans hs
  rw [← hs, hu, rest, ← hstage]

end

/-- Settles O5: fetch decodes the word at the pc that the stages before it leave, and a quiet core has only fetch to do. -/
theorem stepRunsDecoded : Obligations.StepRunsDecoded := by
  intro s p i
  refine ⟨fun hq hiq ha hd => ?_, fun hr hb hp hw ha hd => ?_⟩
  · have ⟨hr, hst, _, _, _, _, _, _, hw, _⟩ := hq
    rw [step_of_beforeFetch hr (beforeFetch_quiet hq hiq) hr, fetchStage_here hw, fetchHere_ins ha hd, execAt_ins,
      rest_exec_fetch i hst]
  · rw [step_of_beforeFetch hr hb hp, fetchStage_here hw, fetchHere_ins ha hd, execAt_ins]

/-- The execute stage visits the entries of its four units in turn. -/
theorem executeStage_visits {s : State} (hs : s.status = .running) : executeStage s =
    andThen (andThen (andThen (visits .execute (poolWork s.rsAlu) s)
      fun u => visits .execute (poolWork u.rsMd) u)
      fun u => visits .execute (poolWork u.rsAgu) u)
      fun u => visits .load (u.lb.map fun l => (l.owner, l.ins.op)) u := by
  rw [executeStage, aluStep, runEntries_visits _ _ s hs,
    andThen_congr (f := mdStep) fun u hu => runEntries_visits .execute (poolWork u.rsMd) u hu,
    andThen_congr (f := aguStep) fun u hu => runEntries_visits .execute (poolWork u.rsAgu) u hu,
    andThen_congr (f := lbStep) fun u hu => runEntries_visits .load _ u hu]

/-- Settles O6: the tick is the sequence of its stages, and the units' steps are visits. -/
theorem tickRunsFiveStages : Obligations.TickRunsFiveStages := by
  intro s a b c d e hs hcommit
  refine ⟨?stops, ?goesOn, fun h tail i hrob hop => ?commit, fun r tail i hiq hop => ?issue, fun _ _ => rfl,
    executeStage_visits hs⟩
  case stops =>
    rw [step_eq_stages hs, hcommit]
    exact andThen_stopped
  case goesOn =>
    intro ha hbroadcast
    rw [step_eq_stages hs, hcommit, andThen_running ha, hbroadcast]
    refine ⟨andThen_stopped, fun hb hexecute => ?_⟩
    rw [andThen_running hb, hexecute]
    refine ⟨andThen_stopped, fun hc hissue => ?_⟩
    rw [andThen_running hc, hissue]
    refine ⟨andThen_stopped, fun hd hfetch => ?_⟩
    rw [andThen_running hd, hfetch]
    exact ⟨andThen_stopped, andThen_running⟩
  case commit => rw [commitStage_cons hrob, hop, execAt_ins]
  case issue => rw [issueStage_cons hiq, hop, execAt_ins]

/-! ### Every stage answers -/

/-- The outcome is a next state. -/
def Answers (o : Out) : Prop := ∃ t, o = .next t

theorem Answers.andThen {o : Out} {f : State → Out} (ho : Answers o) (hf : ∀ s, Answers (f s)) :
    Answers (andThen o f) := by
  obtain ⟨s, rfl⟩ := ho
  by_cases hs : s.status = .running
  · rw [andThen_running hs]
    exact hf s
  · exact ⟨s, andThen_stopped hs⟩

theorem execAt_answers (p : Stage) (o : Op) (s : State) : Answers (execAt p o s) := by
  obtain ⟨_, _, he⟩ := execAt_next p o s
  exact ⟨_, he⟩

theorem commitStage_answers (s : State) : Answers (commitStage s) := by
  unfold commitStage
  split
  · exact ⟨s, rfl⟩
  · exact execAt_answers _ _ s

theorem broadcastStage_answers (s : State) : Answers (broadcastStage s) := by
  unfold broadcastStage
  dsimp only
  split <;> exact ⟨_, rfl⟩

theorem runEntries_answers (stageOf : Tag → Stage) (es : List (Tag × Op)) :
    ∀ s : State, Answers (runEntries stageOf es s) := by
  induction es with
  | nil => exact fun s => ⟨s, rfl⟩
  | cons e es ih => exact fun s => (execAt_answers _ _ s).andThen ih

theorem executeStage_answers (s : State) : Answers (executeStage s) :=
  (((runEntries_answers _ _ s).andThen fun u => runEntries_answers _ _ u).andThen
    fun u => runEntries_answers _ _ u).andThen fun u => runEntries_answers _ _ u

theorem issueStage_answers (s : State) : Answers (issueStage s) := by
  unfold issueStage
  split
  · exact ⟨s, rfl⟩
  · exact execAt_answers _ _ s

theorem fetchHere_answers (s : State) : Answers (fetchHere s) := by
  unfold fetchHere
  split
  · exact ⟨_, rfl⟩
  · split
    · exact ⟨_, rfl⟩
    · exact execAt_answers _ _ s

theorem fetchStage_answers (s : State) : Answers (fetchStage s) := by
  unfold fetchStage
  split
  · exact fetchHere_answers s
  · exact ⟨s, rfl⟩
  · split
    · exact ⟨_, rfl⟩
    · split
      · exact ⟨s, rfl⟩
      · exact fetchHere_answers _

/-- R134: a running core always has its tick. -/
theorem step_answers {s : State} (hs : s.status = .running) : Answers (step s) := by
  rw [step_eq_stages hs]
  exact (commitStage_answers s).andThen fun a => (broadcastStage_answers a).andThen fun b =>
    (executeStage_answers b).andThen fun c => (issueStage_answers c).andThen fun d =>
      (fetchStage_answers d).andThen fun _ => ⟨_, rfl⟩

/-! ### The clock, the parameters and the resting stage -/

/-- What every stage leaves alone: the clock (R133), the parameters (log entry 1) and, if it is at rest, the model's own
`stage` (log entry 12). -/
structure ClockKept (s u : State) : Prop where
  cycle : u.cycle = s.cycle
  cfg : u.cfg = s.cfg
  stage : s.stage = .fetch → u.stage = .fetch

theorem ClockKept.refl (s : State) : ClockKept s s := ⟨rfl, rfl, id⟩

theorem ClockKept.trans {s u v : State} (h : ClockKept s u) (g : ClockKept u v) : ClockKept s v :=
  ⟨g.cycle.trans h.cycle, g.cfg.trans h.cfg, g.stage ∘ h.stage⟩

theorem execAt_stage {p : Stage} {o : Op} {s u : State} (h : execAt p o s = .next u) : u.stage = .fetch := by
  obtain ⟨_, _, rfl⟩ := execAt_inv h
  rfl

theorem CommitResult.clock {o : Op} {s u : State} (r : CommitResult o s u) : u.cycle = s.cycle ∧ u.cfg = s.cfg := by
  cases r with
  | retire h younger mem =>
    rw [writeBack_eq]
    exact ⟨rfl, rfl⟩
  | _ => exact ⟨rfl, rfl⟩

theorem commitStage_clockKept {s u : State} (h : commitStage s = .next u) : ClockKept s u := by
  rcases commitStage_cases h with ⟨_, rfl⟩ | ⟨_, _, _, _, r, rfl⟩
  · exact .refl _
  · exact ⟨r.clock.1, r.clock.2, fun _ => rfl⟩

theorem removeHarvested_stage (x : Harvested) (s : State) : (removeHarvested x s).stage = s.stage := by
  unfold removeHarvested
  split <;> rfl

theorem harvestAll_stage (xs : List Harvested) :
    ∀ (s : State) (ms : List CdbMsg), (harvestAll xs s ms).1.stage = s.stage := by
  induction xs with
  | nil => exact fun _ _ => rfl
  | cons x xs ih =>
    intro s ms
    unfold harvestAll
    dsimp only
    split
    · exact removeHarvested_stage x s
    · exact (ih _ _).trans (removeHarvested_stage x s)

theorem deliverAll_stage (ms : List CdbMsg) : ∀ s : State, (ms.foldl deliver s).stage = s.stage := by
  induction ms with
  | nil => exact fun _ => rfl
  | cons m ms ih => exact fun s => ih (deliver s m)

theorem broadcastStage_stage {s u : State} (h : broadcastStage s = .next u) : u.stage = s.stage := by
  have harvest := harvestAll_stage (harvestSet s) s []
  unfold broadcastStage at h
  dsimp only at h
  split at h
  · cases h
    exact (deliverAll_stage _ _).trans harvest
  · cases h
    exact harvest

theorem broadcastStage_clockKept {s u : State} (h : broadcastStage s = .next u) : ClockKept s u :=
  ⟨(broadcastStage_backendOnly h).cycle, (broadcastStage_backendOnly h).cfg, (broadcastStage_stage h).trans⟩

theorem runEntries_stage {stageOf : Tag → Stage} {es : List (Tag × Op)} {s u : State} (hr : s.status = .running)
    (hs : s.stage = .fetch) (h : runEntries stageOf es s = .next u) : u.stage = .fetch :=
  (runEntries_induction (P := fun v => v.stage = .fetch) (fun _ _ _ _ _ _ hx => .of_both (execAt_stage hx)) hr hs h).both

theorem executeStage_stage {s u : State} (hr : s.status = .running) (hs : s.stage = .fetch)
    (h : executeStage s = .next u) : u.stage = .fetch := by
  refine (executeStage_induction (P := fun v => v.stage = .fetch) (fun v w hv hst hx => .of_both ?_) hr hs h).both
  rcases hx with hx | hx | hx | hx <;> exact runEntries_stage hv hst hx

theorem executeStage_clockKept {s u : State} (hr : s.status = .running) (h : executeStage s = .next u) :
    ClockKept s u :=
  ⟨(executeStage_backendOnly hr h).cycle, (executeStage_backendOnly hr h).cfg, fun hs => executeStage_stage hr hs h⟩

theorem issueAs_clock (form : IssueForm) (s : State) :
    (issueAs form s).cycle = s.cycle ∧ (issueAs form s).cfg = s.cfg := by
  rcases issueAs_cases form s with ⟨_, he⟩ | ⟨_, _, _, _, _, he⟩ | ⟨_, _, _, _, _, _, _, he⟩
  · rw [he]
    exact ⟨rfl, rfl⟩
  · rw [he]
    exact ⟨rfl, rfl⟩
  · rw [he, claim_eq]
    cases form.pool <;> exact ⟨rfl, rfl⟩

theorem IssueMove.clock {o : Op} {s u : State} (m : IssueMove o s u) : u.cycle = s.cycle ∧ u.cfg = s.cfg := by
  cases m with
  | issue form => exact issueAs_clock form s
  | jalr form =>
    obtain ⟨_, he⟩ := issueJalr_eq form s
    rw [he]
    exact issueAs_clock form s
  | refused => exact ⟨rfl, rfl⟩

theorem issueStage_clockKept {s u : State} (h : issueStage s = .next u) : ClockKept s u := by
  rcases issueStage_cases h with ⟨_, rfl⟩ | ⟨_, _, _, _, m, rfl⟩
  · exact .refl _
  · exact ⟨m.clock.1, m.clock.2, fun _ => rfl⟩

theorem fetchStage_stage {s u : State} (hs : s.stage = .fetch) (h : fetchStage s = .next u) : u.stage = .fetch := by
  rcases fetchStage_cases h with ⟨_, rfl⟩ | ⟨_, _, _, rfl⟩ | ⟨_, _, _, _, _, rfl⟩ | ⟨_, _, _, rfl⟩ | ⟨_, _, _, rfl⟩
  case inr.inr.inr.inr => rfl
  all_goals exact hs

theorem fetchStage_clockKept {s u : State} (h : fetchStage s = .next u) : ClockKept s u :=
  ⟨(fetchStage_frontendOnly h).cycle, (fetchStage_frontendOnly h).cfg, fun hs => fetchStage_stage hs h⟩

/-- A tick that completes is one cycle on; one that ends the run is not counted (R133). -/
theorem step_clock {s t : State} (h : step s = .next t) :
    Goes (fun u => ∃ e, ClockKept s e ∧ u = { e with cycle := e.cycle + 1 }) (ClockKept s) t :=
  step_induction (C := ClockKept s) (B := ClockKept s) (X := ClockKept s) (I := ClockKept s) (F := ClockKept s) h
    (fun _ ha => .of_both (commitStage_clockKept ha))
    (fun _ _ _ k hb => .of_both (k.trans (broadcastStage_clockKept hb)))
    (fun _ _ hr k hc => .of_both (k.trans (executeStage_clockKept hr hc)))
    (fun _ _ _ k hd => .of_both (k.trans (issueStage_clockKept hd)))
    (fun _ _ _ k he => .of_both (k.trans (fetchStage_clockKept he)))
    (fun e _ k => ⟨e, k, rfl⟩)

/-- Settles O7: every stage answers and leaves the clock alone; only a tick that completes moves it. -/
theorem cycleCountsCompletedTicks : Obligations.CycleCountsCompletedTicks := by
  intro s hs
  obtain ⟨t, ht⟩ := step_answers hs
  obtain ⟨completed, stopped⟩ := step_clock ht
  refine ⟨t, ht, ?_⟩
  by_cases hr : t.status = .running
  · obtain ⟨e, ⟨hcycle, hcfg, hstage⟩, rfl⟩ := completed hr
    exact ⟨.inl ⟨hr, congrArg (· + 1) hcycle⟩, hcfg, hstage⟩
  · obtain ⟨hcycle, hcfg, hstage⟩ := stopped hr
    exact ⟨.inr ⟨hr, hcycle⟩, hcfg, hstage⟩

end Sys2Proof.Machine
end

section
/-! PROOFS. The rename read and the issue of one instruction (40_cycle_issue_rename.md R141 to R148), as the whole next
state. -/

namespace Sys2Proof.Machine

section

variable {s : State}

/-! ### The rename read -/

theorem renameRead_zero (s : State) : renameRead s 0 = .slot ⟨0, 0⟩ := rfl

variable {r : Reg}

theorem renameRead_idle (hr : r ≠ 0) (hb : (rstAt s r).busy = false) :
    renameRead s r = .slot ⟨s.regs[r.toNat]'r.isLt, 0⟩ := by
  rw [renameRead, if_neg hr, if_pos hb, readReg, if_neg hr]

/-- A busy register is read from its producer's entry. -/
theorem renameRead_produced {h : RobEntry} (hr : r ≠ 0) (hb : (rstAt s r).busy = true)
    (he : robAt s (rstAt s r).tag = some h) :
    renameRead s r = if h.complete then .slot ⟨h.result, 0⟩ else .slot ⟨0, (rstAt s r).tag⟩ := by
  rw [renameRead, if_neg hr, if_neg (by simp [hb]), he]

theorem renameRead_stale (hr : r ≠ 0) (hb : (rstAt s r).busy = true) (he : robAt s (rstAt s r).tag = none) :
    renameRead s r = .stale (rstAt s r).tag := by
  rw [renameRead, if_neg hr, if_neg (by simp [hb]), he]

/-! ### The issue -/

/-- The state after the issue of the head record `r`, whose operands and store data were read as `j`, `k` and `d`. -/
def issued (form : IssueForm) (r : Decoded) (waiting : List Decoded) (j k d : Slot) (s : State) : State :=
  { s with
    iq := waiting
    nextTag := s.nextTag + 1
    rob := s.rob ++ [newRobEntry form r s.nextTag d]
    rsAlu := if form.pool = .alu then s.rsAlu ++ [newRsEntry form r s.nextTag j k] else s.rsAlu
    rsMd := if form.pool = .md then s.rsMd ++ [newRsEntry form r s.nextTag j k] else s.rsMd
    rsAgu := if form.pool = .agu then s.rsAgu ++ [newRsEntry form r s.nextTag j k] else s.rsAgu
    rst := rstClaimed s form.dest s.nextTag }

variable {form : IssueForm} {record : Decoded} {waiting : List Decoded} {j k d : Slot}

/-- Three reads that meet no stale tag (R148). -/
theorem readOperands_slots {pc : Word} {x y : Operand} {data : Option Reg} (hj : readOperand s pc x = .slot j)
    (hk : readOperand s pc y = .slot k) (hnone : data = none → d = ⟨0, 0⟩)
    (hsome : ∀ b, data = some b → renameRead s b = .slot d) : readOperands s pc x y data = .slots j k d := by
  rw [readOperands, hj]
  dsimp only
  rw [hk]
  cases data with
  | none => rw [hnone rfl]
  | some b =>
    dsimp only
    rw [hsome b rfl]

theorem issueAs_issued (hiq : s.iq = record :: waiting)
    (hreads : readOperands s record.pc form.j form.k form.data = .slots j k d) :
    issueAs form s = issued form record waiting j k d s := by
  unfold issueAs
  rw [hiq]
  dsimp only
  rw [readOperands_pop, hreads]
  dsimp only
  rw [claim_eq, issued]
  cases form.pool <;> rfl

/-- R147: a JALR hands an unissued fetch stall over to its tag. -/
theorem issueJalr_issued (hrun : s.status = .running) (hiq : s.iq = record :: waiting)
    (hreads : readOperands s record.pc form.j form.k form.data = .slots j k d) :
    issueJalr form s = { issued form record waiting j k d s with
      jalrWait := if s.jalrWait = .unissued then .waiting s.nextTag else s.jalrWait } := by
  have hstatus : (issued form record waiting j k d s).status = .running := hrun
  unfold issueJalr
  dsimp only
  rw [issueAs_issued hiq hreads]
  by_cases hw : s.jalrWait = .unissued
  · rw [if_pos ⟨by simp [hiq], hstatus, hw⟩, if_pos hw]
  · rw [if_neg fun h => hw h.2.2, if_neg hw]
    rfl

end

/-- Settles O28: the branches of the rename read, in their order. -/
theorem renameReadMapsRegisters : Obligations.RenameReadMapsRegisters := by
  intro s r older younger h
  refine ⟨fun hr => hr ▸ renameRead_zero s, renameRead_idle, fun hr hb ho => ?_, fun hr hb habsent =>
    renameRead_stale hr hb (robAt_absent habsent)⟩
  rw [renameRead_produced hr hb (robAt_owner ho)]
  exact ⟨fun hc => if_pos hc, fun hc => if_neg (by simp [hc])⟩

/-- Settles O29: one issue for every row of the issue table; a JALR also hands over the fetch stall. -/
theorem issueFillsSlots : Obligations.IssueFillsSlots := by
  intro i form s r tail j k d hrun hstage hiq hform hj hk hnone hsome
  have hreads := readOperands_slots hj hk hnone hsome
  cases hjalr : isJalr i with
  | false =>
    rw [exec_issue hstage hform hjalr, issueAs_issued hiq hreads]
    simp only [Bool.false_eq_true, false_and, if_false]
    rfl
  | true =>
    rw [exec_issue_jalr hstage hform hjalr, issueJalr_issued hrun hiq hreads]
    simp only [true_and]
    rfl

end Sys2Proof.Machine
end

section
/-! PROOFS. The execute stage on the reservation stations: the ALU by its table (41_alu.md R170, R228), and the entries that
wait for an operand. -/

namespace Sys2Proof.Machine

/-! ### The functions of the ALU, by number -/

theorem bit_decide (p : Prop) [Decidable p] : bit (decide p) = if p then 1 else 0 := by simp [bit]

theorem bit_not_decide (p : Prop) [Decidable p] : bit (!decide p) = if p then 0 else 1 := by simp [bit]

theorem bit_ltSigned (j k : Word) : bit (ltSigned j k) = if j.toInt < k.toInt then 1 else 0 := bit_decide _

theorem bit_ltUnsigned (j k : Word) : bit (ltUnsigned j k) = if j.toNat < k.toNat then 1 else 0 := bit_decide _

theorem bit_takenEq (j k : Word) : bit (takenEq j k) = if j = k then 1 else 0 := bit_decide _

theorem bit_takenNe (j k : Word) : bit (takenNe j k) = if j = k then 0 else 1 := bit_not_decide _

theorem bit_takenGe (j k : Word) : bit (takenGe j k) = if k.toInt ≤ j.toInt then 1 else 0 := by
  rw [takenGe, ltSigned, bit_not_decide, ← ite_not]
  simp only [Int.not_lt]

theorem bit_takenGeu (j k : Word) : bit (takenGeu j k) = if k.toNat ≤ j.toNat then 1 else 0 := by
  rw [takenGeu, ltUnsigned, bit_not_decide, ← ite_not]
  simp only [Nat.not_lt]

section

variable {i : Instr} {s : State} {t : Tag} {j k p v : Word}

/-! ### The ALU -/

/-- At the execute stage, an instruction of the ALU table runs the ALU with its own row. -/
theorem exec_execute_table (hs : s.stage = .execute t) (h : aluTable i j k p = some v) :
    ∃ f, exec i s = .next (aluEvaluate f t s) ∧ f j k p = v := by
  cases i <;> cases h <;> refine ⟨_, life_execute hs _ _ _ _ _, ?_⟩
  case slt | slti | blt => exact bit_ltSigned j k
  case sltu | sltiu | bltu => exact bit_ltUnsigned j k
  case beq => exact bit_takenEq j k
  case bne => exact bit_takenNe j k
  case bge => exact bit_takenGe j k
  case bgeu => exact bit_takenGeu j k
  all_goals rfl

/-- Settles O30: one evaluation, in the first entry that is ready. -/
theorem aluResults : Obligations.AluResults := by
  intro s t before after e hstage hfirst
  refine ⟨fun i v hv => ?_, ?_⟩
  · obtain ⟨f, hexec, rfl⟩ := exec_execute_table hstage hv
    rw [hexec, aluEvaluate_split f hfirst]
  · rw [execOp, nopLife, life_execute hstage, aluEvaluate_split _ hfirst]

/-! ### Entries that wait -/

theorem aguLoad_none (h : aguEntry t s = none) : aguLoad t s = s := by rw [aguLoad, h]

theorem aguStore_none (h : aguEntry t s = none) : aguStore t s = s := by rw [aguStore, h]

theorem aguAmo_none (h : aguEntry t s = none) : aguAmo t s = s := by rw [aguAmo, h]

theorem aguLoadReserved_none (h : aguEntry t s = none) : aguLoadReserved t s = s := by rw [aguLoadReserved, h]

/-- Settles O34: every unit looks for an entry with both operands resolved and finds none. -/
theorem pendingEntriesWait : Obligations.PendingEntriesWait := by
  intro i s t hstage hrefused hpending
  have halu (f : Word → Word → Word → Word) : aluEvaluate f t s = s :=
    aluEvaluate_none f fun x hx h => hpending x (.inl hx) h.1
  have hmd (lat : Nat) (f : Word → Word → Option Word) (op : DivOp) : mdAdvance lat f op t s = s :=
    mdAdvance_none f op fun x hx h => hpending x (.inr (.inl hx)) h.1
  have hagu : aguEntry t s = none := aguEntry_none fun x hx h => hpending x (.inr (.inr hx)) h.1
  have alu (hk : kindOf i = .alu ∨ kindOf i = .branch ∨ kindOf i = .syscall ∨ kindOf i = .suppressed) :
      exec i s = .next s := by
    obtain ⟨f, hexec⟩ := exec_execute_alu hstage hk
    rw [hexec, halu]
  cases hk : kindOf i with
  | alu => exact alu (.inl hk)
  | branch => exact alu (.inr (.inl hk))
  | syscall => exact alu (.inr (.inr (.inl hk)))
  | suppressed => exact alu (.inr (.inr (.inr hk)))
  | mul =>
    obtain ⟨f, hexec⟩ := exec_execute_mul hstage hk
    rw [hexec, hmd]
  | div =>
    obtain ⟨op, hop⟩ := divOpOf_of_kind hk
    rw [exec_execute_div hstage hop, hmd]
  | load => rw [exec_execute_load hstage hk, aguLoad_none hagu]
  | store w => rw [exec_execute_store hstage hk, aguStore_none hagu]
  | amo => rw [exec_execute_amo hstage hk, aguAmo_none hagu]
  | loadReserved => rw [exec_execute_loadReserved hstage hk, aguLoadReserved_none hagu]
  | refused => exact absurd hk hrefused

end

end Sys2Proof.Machine
end

section
/-! PROOFS. The ALU pool alone in the core: one instruction from its issue to the commit, tick by tick (41_alu.md R170, R232;
70_reset_and_hazards.md R446). -/

namespace Sys2Proof.Machine

/-! ### The tables with NOP in them (41_alu.md R232) -/

/-- The issue form of a record's op: NOP has no operand and no destination. -/
def issueTableOp : Op → Option IssueForm
  | .ins i => issueTable i
  | .nop => some (aluForm (.const 0) (.const 0) 0)

/-- The ALU's result for a record's op: NOP's is 0. -/
def aluTableOp (o : Op) (j k p : Word) : Option Word :=
  match o with
  | .ins i => aluTable i j k p
  | .nop => some 0

/-- What an operand reads where no register is claimed (30_encoding.md R111). -/
def operandValue (x : Reg → Word) (pc : Word) : Operand → Word
  | .reg r => x r
  | .const v => v
  | .pc => pc

section

variable {i : Instr} {o : Op} {s : State} {j k p v : Word}

theorem aluTable_kind (h : aluTable i j k p = some v) :
    kindOf i = .alu ∨ kindOf i = .branch ∨ kindOf i = .syscall := by
  cases i <;> cases h <;> simp [kindOf]

theorem aluTable_form {form : IssueForm} (h : aluTable i j k p = some v) (hform : issueTable i = some form) :
    form.pool = .alu ∧ form.data = none := by
  cases i <;> cases h <;> cases hform <;> exact ⟨rfl, rfl⟩

theorem aluTableOp_form {form : IssueForm} (h : aluTableOp o j k p = some v) (hform : issueTableOp o = some form) :
    form.pool = .alu ∧ form.data = none := by
  cases o with
  | ins i => exact aluTable_form h hform
  | nop =>
    cases hform
    exact ⟨rfl, rfl⟩

theorem readOperand_free (h : s.rst = clearAll) (pc : Word) (x : Operand) :
    readOperand s pc x = .slot ⟨operandValue (readReg s) pc x, 0⟩ := by
  cases x with
  | reg r => exact renameRead_free h r
  | const v => rfl
  | pc => rfl

end

/-! ### Issue, evaluation and commit of a record's op -/

section

variable {o : Op} {s u : State} {h : RobEntry} {younger : List RobEntry}

/-- The meaning of a record's op at a stage of the tick, by what it leaves besides the model's own `stage`. -/
theorem execAt_execOp {p : Stage} (h : execOp o { s with stage := p } = .next { u with stage := p })
    (hu : u.stage = .fetch) : execAt p o s = .next u := by
  rw [execAt, h, rest, ← hu]

/-- The issue of a record without store data, while no JALR awaits its issue. -/
theorem issueStage_issued {form : IssueForm} {r : Decoded} {waiting : List Decoded} {j k : Slot}
    (hrun : s.status = .running) (hs : s.stage = .fetch) (hwait : s.jalrWait = .none) (hiq : s.iq = r :: waiting)
    (hform : issueTableOp r.op = some form) (hdata : form.data = none) (hj : readOperand s r.pc form.j = .slot j)
    (hk : readOperand s r.pc form.k = .slot k) :
    issueStage s = .next (issued form r waiting j k ⟨0, 0⟩ s) := by
  have hreads := readOperands_slots (data := form.data) hj hk (fun _ => rfl) (by simp [hdata])
  rw [issueStage_cons hiq]
  refine execAt_execOp ?_ hs
  cases hop : r.op with
  | ins i =>
    rw [hop] at hform
    rw [execOp, issueFillsSlots i form { s with stage := .issue } r waiting j k ⟨0, 0⟩ hrun rfl hiq hform hj hk
      (fun _ => rfl) (by simp [hdata]), if_neg (by simp [hwait])]
    rfl
  | nop =>
    rw [hop] at hform
    cases hform
    rw [execOp, nopLife, life_issue rfl, issueAs_issued (s := { s with stage := .issue })
      (form := aluForm (.const 0) (.const 0) 0) hiq hreads]
    rfl

theorem execOp_execute_table {t : Tag} {before after : List RsEntry} {e : RsEntry} {v : Word}
    (hs : s.stage = .execute t) (hfirst : FirstWhere (fun x => Eligible t x ∧ x.progress = 0) s.rsAlu before e after)
    (hv : aluTableOp o e.vj e.vk e.ins.pc = some v) :
    execOp o s = .next { s with rsAlu := before ++ { e with result := v, progress := 1 } :: after } := by
  obtain ⟨hins, hnop⟩ := aluResults s t before after e hs hfirst
  cases o with
  | ins i => exact hins i v hv
  | nop =>
    cases hv
    exact hnop

theorem commitOther_waits (hrob : s.rob = h :: younger) (hc : h.complete = false) : commitOther s = s := by
  rw [commitOther, hrob]
  exact if_pos hc

theorem commitOther_retires (hrob : s.rob = h :: younger) (hc : h.complete = true) : commitOther s = { s with
    regs := regsWith s h.dest h.result, rst := rstReleased s h.dest h.tag, rob := younger } := by
  simp [commitOther, hrob, hc, writeBack_eq, retire]

theorem commitBranch_waits (imm : Word) (hrob : s.rob = h :: younger) (hc : h.complete = false) :
    commitBranch imm s = s := by
  rw [commitBranch, hrob]
  exact if_pos hc

/-- A branch that was predicted right leaves (46_commit.md R374). -/
theorem commitBranch_right (imm : Word) (hrob : s.rob = h :: younger) (hc : h.complete = true)
    (hp : (h.result == 1) = h.ins.pred) :
    commitBranch imm s = { s with pred := updatedPred s h.ins.pc (h.result == 1), rob := younger } := by
  simp only [commitBranch, hrob, hc, if_pos hp, retire]
  rfl

/-- A branch that was predicted wrong redirects pc and squashes (R374, R379, R383). -/
theorem commitBranch_wrong (imm : Word) (hrob : s.rob = h :: younger) (hc : h.complete = true)
    (hp : (h.result == 1) ≠ h.ins.pred) :
    commitBranch imm s = squashed { s with
      pred := updatedPred s h.ins.pc (h.result == 1), pc := branchTarget h imm (h.result == 1) } := by
  simp only [commitBranch, hrob, hc, if_neg hp]
  rfl

theorem commitSyscall_waits (hrob : s.rob = h :: younger) (hv : h.valueReady = false) : commitSyscall s = s := by
  rw [commitSyscall, hrob]
  exact if_pos hv

/-- An instruction of the ALU pool waits at the head for its result, ECALL for its value_ready (46_commit.md R374 to
R376). -/
theorem commitStage_alu_waits {j k p v : Word} (hs : s.stage = .fetch) (hrob : s.rob = h :: younger)
    (ho : aluTableOp h.ins.op j k p = some v) (hc : h.complete = false) (hv : h.valueReady = false) :
    commitStage s = .next s := by
  rw [commitStage_cons hrob]
  refine execAt_execOp ?_ hs
  have hrob' : ({ s with stage := .commit } : State).rob = h :: younger := hrob
  cases hop : h.ins.op with
  | nop => rw [execOp, nopLife, life_commit rfl, commitOther_waits hrob' hc]
  | ins i =>
    rw [hop] at ho
    rw [execOp]
    rcases aluTable_kind ho with hk | hk | hk
    · rw [exec_commit_other rfl (.inl hk), commitOther_waits hrob' hc]
    · obtain ⟨_, imm, hshape⟩ := branchShape_of_kind hk
      rw [exec_commit_branch rfl hshape, commitBranch_waits imm hrob' hc]
    · rw [exec_commit_syscall rfl hk, commitSyscall_waits hrob' hv]

end

/-! ### The stages of a core with work for the ALU only -/

/-- A state between two stages with nothing in the other two pools and the load buffer. -/
structure AluOnly (s : State) : Prop where
  running : s.status = .running
  stage : s.stage = .fetch
  rsMd : s.rsMd = []
  rsAgu : s.rsAgu = []
  lb : s.lb = []

section

variable {s u : State} {e : RsEntry} {h : RobEntry}

theorem executeStage_of_aluStep (halu : aluStep s = .next u) (hu : AluOnly u) : executeStage s = .next u := by
  have hmd : mdStep u = .next u := by rw [mdStep, hu.rsMd]; rfl
  rw [executeStage, halu, andThen_running hu.running, hmd, andThen_running hu.running, aguStep_empty hu.rsAgu,
    andThen_running hu.running, lbStep_empty hu.lb]

/-- One evaluation, of the only entry of rs_alu. -/
theorem AluOnly.executeStage_evaluates {v : Word} (hs : AluOnly s) (halu : s.rsAlu = [e]) (hready : Eligible e.dest e)
    (hfresh : e.progress = 0) (hv : aluTableOp e.ins.op e.vj e.vk e.ins.pc = some v) :
    executeStage s = .next { s with rsAlu := [{ e with result := v, progress := 1 }] } := by
  refine executeStage_of_aluStep ?_ ⟨hs.running, hs.stage, hs.rsMd, hs.rsAgu, hs.lb⟩
  rw [aluStep, halu]
  refine runEntries_single (execAt_execOp ?_ hs.stage)
  exact execOp_execute_table (s := { s with stage := .execute e.dest }) rfl
    (firstWhere_singleton halu ⟨hready, hfresh⟩) hv

theorem AluOnly.harvestSet_nil (hs : AluOnly s) (h : ∀ e ∈ s.rsAlu, e.progress = 0) : harvestSet s = [] := by
  have alu : s.rsAlu.filter aluDone = [] := List.filter_eq_nil_iff.2 fun e he => by simp [aluDone, h e he]
  simp [harvestSet, alu, hs.rsMd, hs.rsAgu, hs.lb]

theorem markEntry_storeQ (v : Word) (h : RobEntry) : (markEntry v h).storeQ = h.storeQ := by
  unfold markEntry
  split <;> rfl

/-- The broadcast of the only entry of rs_alu, evaluated, to its owner, alone in the reorder buffer. -/
theorem AluOnly.broadcastStage_done (hs : AluOnly s) (halu : s.rsAlu = [e]) (hdone : 1 ≤ e.progress) (hrob : s.rob = [h])
    (howner : e.dest = h.tag) (hdata : h.storeQ ≠ h.tag) :
    broadcastStage s = .next { s with rsAlu := [], rob := [markEntry e.result h] } := by
  have done : aluDone e = true := by simp [aluDone, hdone]
  have harvest : harvestSet s = [⟨.alu, h.tag, e.result⟩] := by
    simp [harvestSet, hs.rsMd, hs.rsAgu, hs.lb, halu, done, howner]
  have removed : removeHarvested ⟨.alu, h.tag, e.result⟩ s = { s with rsAlu := [] } := by
    simp [removeHarvested, halu, howner, done]
  have found : robAt { s with rsAlu := [] } h.tag = some h := robAt_head hrob
  have marked : updateRob h.tag (markEntry e.result) { s with rsAlu := [] } =
      { s with rsAlu := [], rob := [markEntry e.result h] } := by
    simp [updateRob, updateFirst, hrob]
  have harvested : harvestAll (harvestSet s) s [] =
      ({ s with rsAlu := [], rob := [markEntry e.result h] }, messageOf h ⟨.alu, h.tag, e.result⟩) := by
    rw [harvest, harvestAll, removed]
    dsimp only
    rw [found]
    dsimp only
    rw [marked]
    rfl
  rw [broadcastStage, harvested]
  dsimp only
  rw [if_pos hs.running]
  have after : MemoryOnly { s with rsAlu := [], rob := [markEntry e.result h] } := ⟨hs.running, hs.stage, rfl, hs.rsMd⟩
  refine congrArg _ (after.deliverAll_unheard hs.rsAgu rfl _ fun m hm he => hdata ?_)
  exact (markEntry_storeQ _ h).symm.trans (he.trans (messageOf_tag hm))

end

/-! ### From issue to the harvest -/

/-- A record of the ALU pool, its issue form and the result that its operands give. -/
structure AluRecord where
  record : Decoded
  form : IssueForm
  result : Word

/-- The record is the only instruction in the core, about to issue. -/
structure AluRecord.Meets (p : AluRecord) (s : State) : Prop where
  quiet : Quiet s
  iq : s.iq = [p.record]
  form : issueTableOp p.record.op = some p.form
  result : aluTableOp p.record.op (operandValue (readReg s) p.record.pc p.form.j)
    (operandValue (readReg s) p.record.pc p.form.k) p.record.pc = some p.result

section

variable (p : AluRecord) (s : State)

/-- Its reorder-buffer entry as it issues. -/
def AluRecord.entry : RobEntry := newRobEntry p.form p.record s.nextTag ⟨0, 0⟩

/-- Its entry of rs_alu as it issues. -/
def AluRecord.station : RsEntry :=
  newRsEntry p.form p.record s.nextTag ⟨operandValue (readReg s) p.record.pc p.form.j, 0⟩
    ⟨operandValue (readReg s) p.record.pc p.form.k, 0⟩

/-- After the first tick: issued. -/
def AluRecord.atIssue : State :=
  { s with
    iq := [], nextTag := s.nextTag + 1, cycle := s.cycle + 1, rob := [p.entry s], rsAlu := [p.station s]
    rst := rstClaimed s p.form.dest s.nextTag }

/-- After the second: evaluated. -/
def AluRecord.evaluated : State :=
  { p.atIssue s with cycle := s.cycle + 2, rsAlu := [{ p.station s with result := p.result, progress := 1 }] }

/-- After the third: harvested. -/
def AluRecord.harvested : State :=
  { p.atIssue s with cycle := s.cycle + 3, rsAlu := [], rob := [markEntry p.result (p.entry s)] }

end

namespace AluRecord.Meets

variable {p : AluRecord} {s u : State}

theorem only (hp : p.Meets s) (hstatus : u.status = s.status) (hstage : u.stage = s.stage) (hmd : u.rsMd = s.rsMd)
    (hagu : u.rsAgu = s.rsAgu) (hlb : u.lb = s.lb) : AluOnly u := by
  obtain ⟨hr, hst, _, _, hm, ha, hl, _⟩ := hp.quiet
  exact ⟨hstatus.trans hr, hstage.trans hst, hmd.trans hm, hagu.trans ha, hlb.trans hl⟩

/-- The first tick: the record issues. -/
theorem first_tick (hp : p.Meets s) (n : Nat) : backTicks (n + 1) s = backTicks n (p.atIssue s) := by
  obtain ⟨hrun, hstage, hrob, halu, hmd, hagu, hlb, hrst, hwait, _⟩ := hp.quiet
  obtain ⟨hpool, hdata⟩ := aluTableOp_form hp.result hp.form
  have hm : MemoryOnly s := ⟨hrun, hstage, halu, hmd⟩
  have silent := hm.harvestSet_nil (by simp [hagu]) (by simp [hlb])
  have done := issueStage_issued hrun hstage hwait hp.iq hp.form hdata (readOperand_free hrst p.record.pc p.form.j)
    (readOperand_free hrst p.record.pc p.form.k)
  rw [backTicks_succ n (commitStage_empty hrob) hrun (broadcastStage_idle hrun silent) hrun
    (executeStage_memory hm (aguStep_empty hagu) hrun (lbStep_empty hlb)) hrun done hrun]
  simp only [issued, hpool, hrob, halu]
  rfl

/-- The second tick: the ALU evaluates it, while commit waits. -/
theorem second_tick (hp : p.Meets s) (n : Nat) : backTicks (n + 1) (p.atIssue s) = backTicks n (p.evaluated s) := by
  obtain ⟨_, hdata⟩ := aluTableOp_form hp.result hp.form
  have only : AluOnly (p.atIssue s) := hp.only rfl rfl rfl rfl rfl
  have waits : commitStage (p.atIssue s) = .next (p.atIssue s) :=
    commitStage_alu_waits only.stage rfl hp.result rfl (by simp [entry, newRobEntry, hdata])
  have silent : harvestSet (p.atIssue s) = [] := only.harvestSet_nil (by simp [atIssue, station, newRsEntry])
  have done := only.executeStage_evaluates rfl ⟨rfl, rfl, rfl⟩ rfl hp.result
  exact backTicks_succ n waits only.running (broadcastStage_idle only.running silent) only.running done only.running
    (issueStage_empty rfl) only.running

/-- The third tick: its result is harvested, while commit waits. -/
theorem third_tick (hp : p.Meets s) (n : Nat) : backTicks (n + 1) (p.evaluated s) = backTicks n (p.harvested s) := by
  obtain ⟨_, _, _, _, _, _, _, _, _, htag⟩ := hp.quiet
  obtain ⟨_, hdata⟩ := aluTableOp_form hp.result hp.form
  have only : AluOnly (p.evaluated s) := hp.only rfl rfl rfl rfl rfl
  have waits : commitStage (p.evaluated s) = .next (p.evaluated s) :=
    commitStage_alu_waits only.stage rfl hp.result rfl (by simp [entry, newRobEntry, hdata])
  have done := only.broadcastStage_done rfl (Nat.le_refl 1) rfl rfl (Nat.ne_of_lt htag)
  exact backTicks_succ_idle n waits only.running done ⟨only.running, only.stage, rfl, only.rsMd⟩ only.rsAgu only.lb rfl

/-- Commit finds the result at the head in the fourth tick. -/
theorem three_ticks (hp : p.Meets s) (n : Nat) : backTicks (n + 3) s = backTicks n (p.harvested s) := by
  rw [hp.first_tick, hp.second_tick, hp.third_tick]

/-- The fourth tick, where its commit leaves nothing in the core. -/
theorem four_ticks (hp : p.Meets s) (hcommit : commitStage (p.harvested s) = .next u) (hu : MemoryOnly u)
    (hagu : u.rsAgu = []) (hlb : u.lb = []) (hiq : u.iq = []) :
    backTicks 4 s = .next { u with cycle := u.cycle + 1 } := by
  have silent := hu.harvestSet_nil (by simp [hagu]) (by simp [hlb])
  rw [hp.three_ticks 1, backTicks_succ_idle 0 hcommit hu.running (broadcastStage_idle hu.running silent) hu hagu hlb hiq,
    backTicks]

end AluRecord.Meets

/-! ### Class other -/

section

variable {i : Instr} {o : Op} {x : Reg → Word} {pc v : Word} {rd : Reg}

theorem shift_setWidth (sh : BitVec 5) : (sh.setWidth 32).toNat % 32 = sh.toNat := by
  have := sh.isLt
  rw [BitVec.toNat_setWidth_of_le (by omega)]
  omega

/-- The value of program order is the ALU table's, on the operands that the issue table names. -/
theorem inOrderValue_tables (h : inOrderValue i x pc = some (rd, v)) :
    kindOf i = .alu ∧ ∃ form, issueTable i = some form ∧ form.dest = rd ∧
      aluTable i (operandValue x pc form.j) (operandValue x pc form.k) pc = some v := by
  cases i <;> cases h <;> refine ⟨rfl, _, rfl, rfl, ?_⟩
  case slli | srli | srai =>
    rw [← shift_setWidth]
    rfl
  all_goals rfl

theorem inOrderOp_tables (h : inOrderOp o x pc = some (rd, v)) :
    (o = .nop ∨ ∃ i, o = .ins i ∧ kindOf i = .alu) ∧ ∃ form, issueTableOp o = some form ∧ form.dest = rd ∧
      aluTableOp o (operandValue x pc form.j) (operandValue x pc form.k) pc = some v := by
  cases o with
  | ins i =>
    obtain ⟨hkind, tables⟩ := inOrderValue_tables h
    exact ⟨.inr ⟨i, rfl, hkind⟩, tables⟩
  | nop =>
    cases h
    exact ⟨.inl rfl, _, rfl, rfl, rfl⟩

end

/-- A complete instruction of class other at the head writes its register and leaves (46_commit.md R376, R377). -/
theorem commitStage_other_retires {s : State} {h : RobEntry} {younger : List RobEntry} (hs : s.stage = .fetch)
    (hrob : s.rob = h :: younger) (hop : h.ins.op = .nop ∨ ∃ i, h.ins.op = .ins i ∧ kindOf i = .alu)
    (hc : h.complete = true) : commitStage s = .next { s with
      regs := regsWith s h.dest h.result, rst := rstReleased s h.dest h.tag, rob := younger } := by
  rw [commitStage_cons hrob]
  refine execAt_execOp ?_ hs
  have retires := commitOther_retires (s := { s with stage := .commit }) hrob hc
  rcases hop with hop | ⟨i, hop, hkind⟩
  · rw [hop, execOp, nopLife, life_commit rfl, retires]
    rfl
  · rw [hop, execOp, exec_commit_other rfl (.inl hkind), retires]
    rfl

theorem isSyscall_of_kind {i : Instr} (hkind : kindOf i ≠ .syscall) : isSyscall (.ins i) = false := by
  simpa [isSyscall, opKind] using hkind

/-- The harvest completes an entry that is no ECALL (45_cdb.md R352). -/
theorem AluRecord.harvested_rob {p : AluRecord} {s : State} (hsys : isSyscall p.record.op = false) :
    (p.harvested s).rob = [{ p.entry s with complete := true, result := p.result }] := by
  have hentry : isSyscall (p.entry s).ins.op = false := hsys
  simp [harvested, markEntry, hentry]

/-- An ALU-pool instruction of class other commits in the fourth tick; the register claimed at issue is released. -/
theorem AluRecord.Meets.commit_other {p : AluRecord} {s : State} (hp : p.Meets s)
    (hop : p.record.op = .nop ∨ ∃ i, p.record.op = .ins i ∧ kindOf i = .alu) :
    commitStage (p.harvested s) = .next { p.harvested s with
      regs := regsWith s p.form.dest p.result, rst := clearAll, rob := [] } := by
  obtain ⟨_, hstage, _, _, _, _, _, hrst, _⟩ := hp.quiet
  have hsys : isSyscall p.record.op = false := by
    rcases hop with hop | ⟨i, hop, hkind⟩
    · rw [hop]
      rfl
    · exact hop ▸ isSyscall_of_kind (by simp [hkind])
  have free : rstReleased (p.harvested s) p.form.dest s.nextTag = clearAll := rstReleased_of_claimed hrst rfl rfl
  rw [← free]
  exact commitStage_other_retires (s := p.harvested s) hstage (harvested_rob hsys) hop rfl

/-- Settles O48: issue, evaluation, harvest and commit, a tick each. -/
theorem aluAlone : Obligations.AluAlone := by
  intro s r rd v ⟨hquiet, hiq⟩ hvalue
  obtain ⟨hop, form, hform, rfl, hresult⟩ := inOrderOp_tables hvalue
  have hp : AluRecord.Meets ⟨r, form, v⟩ s := ⟨hquiet, hiq, hform, hresult⟩
  obtain ⟨hrun, hstage, hrob, halu, hmd, hagu, hlb, hrst, _⟩ := hquiet
  rw [hp.four_ticks (hp.commit_other hop) ⟨hrun, hstage, rfl, hmd⟩ hagu hlb rfl]
  simp only [retiredWith, AluRecord.harvested, AluRecord.atIssue, hrob, halu, hrst]
  rfl

/-! ### Conditional branches -/

/-- A branch compares its two registers (41_alu.md R195 to R200). -/
theorem branchShape_tables {i : Instr} {x : Reg → Word} {taken : Bool} {imm : Word} (pc : Word)
    (h : branchShape i x = some (taken, imm)) :
    kindOf i = .branch ∧ ∃ form, issueTable i = some form ∧ form.dest = 0 ∧
      aluTable i (operandValue x pc form.j) (operandValue x pc form.k) pc = some (bit taken) := by
  cases i <;> cases h <;> refine ⟨rfl, _, rfl, rfl, congrArg some ?_⟩
  case bne => exact (bit_takenNe _ _).symm.trans (congrArg bit decide_not.symm)
  all_goals exact (bit_decide _).symm

theorem bit_beq_one (b : Bool) : (bit b == 1) = b := by cases b <;> rfl

section

variable {p : AluRecord} {s : State} {i : Instr} {taken : Bool} {imm : Word}

theorem isSyscall_of_branchShape (hop : p.record.op = .ins i) (hshape : branchShape i (readReg s) = some (taken, imm)) :
    isSyscall p.record.op = false :=
  hop ▸ isSyscall_of_kind (by simp [(branchShape_tables p.record.pc hshape).1])

/-- A branch that was predicted right leaves pc as it is. -/
theorem AluRecord.Meets.commit_right (hp : p.Meets s) (hop : p.record.op = .ins i)
    (hshape : branchShape i (readReg s) = some (taken, imm)) (hresult : p.result = bit taken)
    (hpred : p.record.pred = taken) : commitStage (p.harvested s) = .next { p.harvested s with
      pred := updatedPred s p.record.pc taken, rob := [] } := by
  obtain ⟨_, hstage, _⟩ := hp.quiet
  have hrob := harvested_rob (s := s) (isSyscall_of_branchShape hop hshape)
  have outcome : (p.result == 1) = taken := (congrArg (· == 1) hresult).trans (bit_beq_one taken)
  refine commitStage_exec hrob hop ?_ hstage
  rw [exec_commit_branch rfl hshape, commitBranch_right (s := { p.harvested s with stage := .commit }) imm hrob rfl
    (outcome.trans hpred.symm)]
  dsimp only
  rw [outcome]
  rfl

/-- A branch that was predicted wrong sends pc to the right target. -/
theorem AluRecord.Meets.commit_wrong (hp : p.Meets s) (hop : p.record.op = .ins i)
    (hshape : branchShape i (readReg s) = some (taken, imm)) (hresult : p.result = bit taken)
    (hpred : p.record.pred ≠ taken) : commitStage (p.harvested s) = .next (squashed { p.harvested s with
      pred := updatedPred s p.record.pc taken
      pc := if taken then p.record.pc + imm else p.record.pc + 4 }) := by
  obtain ⟨_, hstage, _⟩ := hp.quiet
  have hrob := harvested_rob (s := s) (isSyscall_of_branchShape hop hshape)
  have outcome : (p.result == 1) = taken := (congrArg (· == 1) hresult).trans (bit_beq_one taken)
  refine commitStage_exec hrob hop ?_ hstage
  rw [exec_commit_branch rfl hshape, commitBranch_wrong (s := { p.harvested s with stage := .commit }) imm hrob rfl
    (fun h => hpred (h.symm.trans outcome))]
  dsimp only
  rw [outcome]
  rfl

end

/-- Settles O54: the three ticks of the ALU pool, then a commit that keeps pc or squashes. -/
theorem branchAlone : Obligations.BranchAlone := by
  intro s r i taken imm ⟨hquiet, hiq⟩ hop hshape
  obtain ⟨_, form, hform, hdest, hresult⟩ := branchShape_tables r.pc hshape
  have hp : AluRecord.Meets ⟨r, form, bit taken⟩ s :=
    ⟨hquiet, hiq, (congrArg issueTableOp hop).trans hform, hop ▸ hresult⟩
  obtain ⟨hrun, hstage, hrob, halu, hmd, hagu, hlb, hrst, hwait, _⟩ := hquiet
  by_cases hpred : r.pred = taken
  · rw [hp.four_ticks (hp.commit_right hop hshape rfl hpred) ⟨hrun, hstage, rfl, hmd⟩ hagu hlb rfl, if_pos hpred]
    simp only [AluRecord.harvested, AluRecord.atIssue, rstClaimed, hdest, hrob, halu]
    rfl
  · rw [hp.four_ticks (hp.commit_wrong hop hshape rfl hpred) ⟨hrun, hstage, rfl, rfl⟩ rfl rfl rfl, if_neg hpred]
    simp only [squashed, AluRecord.harvested, AluRecord.atIssue, hrob, halu, hmd, hagu, hlb, hrst, hwait]
    rfl

end Sys2Proof.Machine
end

section
/-! PROOFS. The MULDIV unit by its tables (42_muldiv.md R240 to R250): the products, the quotients and remainders, and the
division corner cases, each with one tick of progress. -/

namespace Sys2Proof.Machine

/-! ### Products (R242 to R245) -/

section

variable (j k : Word)

/-- Bits 63..32 of a product, by number. -/
theorem highWord_eq (p : Int) : highWord p = BitVec.ofInt 32 (p / 2 ^ 32) := by
  apply BitVec.eq_of_toNat_eq
  rw [highWord, BitVec.extractLsb'_toNat, BitVec.toNat_ofInt, BitVec.toNat_ofInt, Nat.shiftRight_eq_div_pow]
  omega

theorem mulHighU_eq : mulHighU j k = BitVec.ofNat 32 (j.toNat * k.toNat / 2 ^ 32) := by
  rw [mulHighU, highWord_eq, ← BitVec.ofInt_natCast, Int.natCast_ediv, Int.natCast_mul]
  rfl

theorem mul_eq_ofNat : j * k = BitVec.ofNat 32 (j.toNat * k.toNat) := rfl

end

/-! ### Quotients, remainders and the corner cases (R246 to R250) -/

section

variable {op : DivOp} {j k : Word}

theorem divCornerCase_iff : divCornerCase op j k = true ↔ IsDivCorner op j k := by
  cases op <;> simp [divCornerCase, IsDivCorner]

theorem quotient_eq_divTable (op : DivOp) (j k : Word) : quotient op j k = divTable op j k := by
  cases op with
  | rem => exact congrArg (BitVec.ofInt 32) (Int.tmod_def j.toInt k.toInt)
  | div | divu | remu => rfl

theorem divide_ordinary (corner : DivCorner) (h : ¬ IsDivCorner op j k) :
    divide corner op j k = some (divTable op j k) :=
  (if_neg (mt divCornerCase_iff.mp h)).trans (congrArg some (quotient_eq_divTable op j k))

theorem divide_fault (h : IsDivCorner op j k) : divide .fault op j k = none := if_pos (divCornerCase_iff.mpr h)

theorem divide_host (h : IsDivCorner op j k) : divide .host op j k = some (Config.hostDivision op j k) :=
  if_pos (divCornerCase_iff.mpr h)

theorem divide_riscv (h : IsDivCorner op j k) : divide .riscv op j k = some (riscvCorner op j k) :=
  if_pos (divCornerCase_iff.mpr h)

end

/-! ### One tick of the unit -/

section

variable {i : Instr} {op : DivOp} {s : State} {t : Tag} {before after : List RsEntry} {e : RsEntry} {j k v : Word}

/-- At the execute stage a multiply runs the unit with its own row of the table. -/
theorem exec_execute_mulTable (hs : s.stage = .execute t) (h : mulTable i j k = some v) :
    ∃ f : Word → Word → Word, exec i s = .next (mdAdvance s.cfg.mulLat (fun j k => some (f j k)) .div t s) ∧
      f j k = v := by
  cases i <;> cases h <;> refine ⟨_, life_execute hs _ _ _ _ _, ?_⟩
  case mul => exact mul_eq_ofNat j k
  case mulh | mulhsu => exact highWord_eq _
  case mulhu => exact mulHighU_eq j k

/-- Settles O31: the unit counts one tick, and the tick that reaches MUL_LAT leaves the product. -/
theorem multiplyProgress : Obligations.MultiplyProgress := by
  intro i s t before after e v hstage hfirst hj hk hless hv
  obtain ⟨f, hexec, rfl⟩ := exec_execute_mulTable hstage hv
  rw [hexec, mdAdvance_split _ _ hfirst hj hk hless]
  by_cases hlast : e.progress + 1 = s.cfg.mulLat
  · rw [if_pos hlast, if_pos hlast]
  · rw [if_neg hlast, if_neg hlast]

/-- A tick of a division that is not the last only counts. -/
theorem exec_div_counts (hs : s.stage = .execute t) (hfirst : FirstWhere (fun x => x.dest = t) s.rsMd before e after)
    (hj : e.qj = 0) (hk : e.qk = 0) (hop : divOpOf i = some op) (hless : e.progress + 1 < s.cfg.divLat) :
    exec i s = .next { s with rsMd := before ++ { e with progress := e.progress + 1 } :: after } := by
  rw [exec_execute_div hs hop, mdAdvance_split _ _ hfirst hj hk (Nat.lt_of_succ_lt hless), if_neg (Nat.ne_of_lt hless)]

/-- The last tick of a division that has a value. -/
theorem exec_div_finishes (hs : s.stage = .execute t) (hfirst : FirstWhere (fun x => x.dest = t) s.rsMd before e after)
    (hj : e.qj = 0) (hk : e.qk = 0) (hop : divOpOf i = some op) (hlast : e.progress + 1 = s.cfg.divLat)
    (hv : divide s.cfg.divCorner op e.vj e.vk = some v) :
    exec i s = .next { s with rsMd := before ++ { e with progress := e.progress + 1, result := v } :: after } := by
  rw [exec_execute_div hs hop, mdAdvance_split _ _ hfirst hj hk (Nat.lt_of_succ_le (Nat.le_of_eq hlast)), if_pos hlast,
    hv]

/-- The last tick of a division that has none: DivFault, with the tick counted (log entry 17). -/
theorem exec_div_faults (hs : s.stage = .execute t) (hfirst : FirstWhere (fun x => x.dest = t) s.rsMd before e after)
    (hj : e.qj = 0) (hk : e.qk = 0) (hop : divOpOf i = some op) (hlast : e.progress + 1 = s.cfg.divLat)
    (hv : divide s.cfg.divCorner op e.vj e.vk = none) :
    exec i s = .next { s with
      rsMd := before ++ { e with progress := e.progress + 1 } :: after
      status := .faulted (.divFault e.ins.pc op e.vj e.vk) } := by
  rw [exec_execute_div hs hop, mdAdvance_split _ _ hfirst hj hk (Nat.lt_of_succ_le (Nat.le_of_eq hlast)), if_pos hlast,
    hv]

/-- Settles O32: a tick counts, and the last one leaves the quotient or the remainder. -/
theorem divisionProgress : Obligations.DivisionProgress := fun _ _ _ _ _ _ _ hstage hfirst hj hk hop =>
  ⟨exec_div_counts hstage hfirst hj hk hop,
    fun hlast hcorner => exec_div_finishes hstage hfirst hj hk hop hlast (divide_ordinary _ hcorner)⟩

/-- Settles O33: what the last tick makes of a corner case under each setting of DIV_CORNER. -/
theorem divisionCorners : Obligations.DivisionCorners := by
  intro i op s t before after e hstage hfirst hj hk hop hlast hcorner
  refine ⟨fun hc => ?fault, fun hc => ?host, fun hc => ?riscv⟩
  case fault => exact exec_div_faults hstage hfirst hj hk hop hlast (hc ▸ divide_fault hcorner)
  case host => exact exec_div_finishes hstage hfirst hj hk hop hlast (hc ▸ divide_host hcorner)
  case riscv =>
    rw [exec_div_finishes hstage hfirst hj hk hop hlast (hc ▸ divide_riscv hcorner)]
    cases op <;> rfl

end

end Sys2Proof.Machine
end

section
/-! PROOFS. The MULDIV pool alone in the core: one multiply or division from its issue to the commit or to DivFault, tick by
tick (42_muldiv.md R241, R250, R251; 70_reset_and_hazards.md R445). -/

namespace Sys2Proof.Machine

/-! ### The M instructions by their tables -/

/-- `v` is what the MULDIV unit makes of its operands: a product, or a quotient or remainder outside the corner cases
(42_muldiv.md R242 to R249). -/
def IsMdValue (i : Instr) (j k v : Word) : Prop :=
  mulTable i j k = some v ∨ ∃ op, divOpOf i = some op ∧ ¬ IsDivCorner op j k ∧ divTable op j k = v

section

variable {i : Instr} {op : DivOp} {s : State} {t : Tag} {before after : List RsEntry} {e : RsEntry} {j k v : Word}

/-- What issues into rs_md is a multiply or a division (30_encoding.md R110). -/
theorem kindOf_of_mdForm {form : IssueForm} (h : issueTable i = some form) (hpool : form.pool = .md) :
    kindOf i = .mul ∨ kindOf i = .div := by
  cases i <;> cases h <;> cases hpool <;> simp [kindOf]

theorem mulTable_of_kind (h : kindOf i = .mul) (j k : Word) : ∃ v, mulTable i j k = some v := by
  cases i <;> cases h <;> exact ⟨_, rfl⟩

theorem kindOf_of_mulTable (h : mulTable i j k = some v) : kindOf i = .mul := by
  cases i <;> cases h <;> rfl

theorem kindOf_of_divOpOf (h : divOpOf i = some op) : kindOf i = .div := by
  cases i <;> cases h <;> rfl

theorem latency_mul (c : Config) (h : kindOf i = .mul) : latency c (.ins i) = c.mulLat := by
  simp [latency, opKind, h]

theorem latency_div (c : Config) (h : kindOf i = .div) : latency c (.ins i) = c.divLat := by
  simp [latency, opKind, h]

/-- A tick of the unit that is not the last only counts. -/
theorem exec_md_counts (hs : s.stage = .execute t) (hfirst : FirstWhere (fun x => x.dest = t) s.rsMd before e after)
    (hj : e.qj = 0) (hk : e.qk = 0) (hkind : kindOf i = .mul ∨ kindOf i = .div)
    (hless : e.progress + 1 < latency s.cfg (.ins i)) :
    exec i s = .next { s with rsMd := before ++ { e with progress := e.progress + 1 } :: after } := by
  rcases hkind with hkind | hkind
  · rw [latency_mul _ hkind] at hless
    obtain ⟨v, hv⟩ := mulTable_of_kind hkind e.vj e.vk
    rw [multiplyProgress i s t before after e v hs hfirst hj hk (Nat.lt_of_succ_lt hless) hv,
      if_neg (Nat.ne_of_lt hless)]
  · rw [latency_div _ hkind] at hless
    obtain ⟨op, hop⟩ := divOpOf_of_kind hkind
    exact exec_div_counts hs hfirst hj hk hop hless

/-- The last tick of the unit leaves the value. -/
theorem exec_md_finishes (hs : s.stage = .execute t) (hfirst : FirstWhere (fun x => x.dest = t) s.rsMd before e after)
    (hj : e.qj = 0) (hk : e.qk = 0) (hlast : e.progress + 1 = latency s.cfg (.ins i))
    (hv : IsMdValue i e.vj e.vk v) :
    exec i s = .next { s with rsMd := before ++ { e with progress := e.progress + 1, result := v } :: after } := by
  rcases hv with hv | ⟨op, hop, hcorner, rfl⟩
  · rw [latency_mul _ (kindOf_of_mulTable hv)] at hlast
    rw [multiplyProgress i s t before after e v hs hfirst hj hk (Nat.lt_of_succ_le (Nat.le_of_eq hlast)) hv,
      if_pos hlast]
  · rw [latency_div _ (kindOf_of_divOpOf hop)] at hlast
    exact exec_div_finishes hs hfirst hj hk hop hlast (divide_ordinary _ hcorner)

end

/-! ### The stages of a core with work for the MULDIV unit only -/

/-- A state between two stages with nothing in the other two pools and the load buffer. -/
structure MdOnly (s : State) : Prop where
  running : s.status = .running
  stage : s.stage = .fetch
  rsAlu : s.rsAlu = []
  rsAgu : s.rsAgu = []
  lb : s.lb = []

section

variable {s u : State} {e : RsEntry} {h : RobEntry} {i : Instr} {v : Word}

/-- A second part that leaves the state alone adds nothing, whether or not the run goes on. -/
theorem andThen_idle {f : State → Out} (h : f s = .next s) : andThen (.next s) f = .next s := by
  rw [andThen, h]
  exact ite_self _

/-- The execute stage on one entry of rs_md, by what its instruction leaves. -/
theorem MdOnly.executeStage_exec (hs : MdOnly s) (hmd : s.rsMd = [e]) (hop : e.ins.op = .ins i)
    (hexec : exec i { s with stage := .execute e.dest } = .next { u with stage := .execute e.dest })
    (hu : u.stage = .fetch) (hagu : u.rsAgu = []) (hlb : u.lb = []) : executeStage s = .next u := by
  have halu : aluStep s = .next s := by rw [aluStep, hs.rsAlu]; rfl
  have work : mdStep s = .next u := by
    rw [mdStep, hmd]
    refine runEntries_single ?_
    rw [hop]
    exact execAt_exec hexec hu
  rw [executeStage, halu, andThen_running hs.running, work, andThen_idle (aguStep_empty hagu),
    andThen_idle (lbStep_empty hlb)]

theorem MdOnly.harvestSet_nil (hs : MdOnly s) (h : ∀ e ∈ s.rsMd, e.progress < latency s.cfg e.ins.op) :
    harvestSet s = [] := by
  have md : s.rsMd.filter (mdDone s.cfg) = [] := List.filter_eq_nil_iff.2 fun e he => by simp [mdDone, h e he]
  simp [harvestSet, md, hs.rsAlu, hs.rsAgu, hs.lb]

/-- The broadcast of the only entry of rs_md, done, to its owner, alone in the reorder buffer. -/
theorem MdOnly.broadcastStage_done (hs : MdOnly s) (hmd : s.rsMd = [e]) (hdone : latency s.cfg e.ins.op ≤ e.progress)
    (hrob : s.rob = [h]) (howner : e.dest = h.tag) (hdata : h.storeQ ≠ h.tag) :
    broadcastStage s = .next { s with rsMd := [], rob := [markEntry e.result h] } := by
  have done : mdDone s.cfg e = true := by simp [mdDone, hdone]
  have harvest : harvestSet s = [⟨.md, h.tag, e.result⟩] := by
    simp [harvestSet, hs.rsAlu, hs.rsAgu, hs.lb, hmd, done, howner]
  have removed : removeHarvested ⟨.md, h.tag, e.result⟩ s = { s with rsMd := [] } := by
    simp [removeHarvested, hmd, howner, done]
  have found : robAt { s with rsMd := [] } h.tag = some h := robAt_head hrob
  have marked : updateRob h.tag (markEntry e.result) { s with rsMd := [] } =
      { s with rsMd := [], rob := [markEntry e.result h] } := by
    simp [updateRob, updateFirst, hrob]
  have harvested : harvestAll (harvestSet s) s [] =
      ({ s with rsMd := [], rob := [markEntry e.result h] }, messageOf h ⟨.md, h.tag, e.result⟩) := by
    rw [harvest, harvestAll, removed]
    dsimp only
    rw [found]
    dsimp only
    rw [marked]
    rfl
  rw [broadcastStage, harvested]
  dsimp only
  rw [if_pos hs.running]
  have left : MemoryOnly { s with rsMd := [], rob := [markEntry e.result h] } := ⟨hs.running, hs.stage, hs.rsAlu, rfl⟩
  refine congrArg _ (left.deliverAll_unheard hs.rsAgu rfl _ fun m hm he => hdata ?_)
  exact (markEntry_storeQ _ h).symm.trans (he.trans (messageOf_tag hm))

/-- A tick whose execute stage ends the run. -/
theorem backTicks_faults {a b c : State} (n : Nat) (hcommit : commitStage s = .next a) (ha : a.status = .running)
    (hbroadcast : broadcastStage a = .next b) (hb : b.status = .running) (hexecute : executeStage b = .next c)
    (hc : c.status ≠ .running) : backTicks (n + 1) s = .next c := by
  rw [backTicks, beforeFetch, hcommit, andThen_running ha, hbroadcast, andThen_running hb, hexecute, andThen_stopped hc,
    andThen_stopped hc, andThen_stopped hc]

variable {younger : List RobEntry}

/-- A multiply or a division at the head waits for its result (46_commit.md R376). -/
theorem commitStage_md_waits (hs : s.stage = .fetch) (hrob : s.rob = h :: younger) (hop : h.ins.op = .ins i)
    (hkind : kindOf i = .mul ∨ kindOf i = .div) (hc : h.complete = false) : commitStage s = .next s := by
  refine commitStage_exec hrob hop ?_ hs
  rw [exec_commit_other rfl (.inr (hkind.imp_right .inl)), commitOther_waits (s := { s with stage := .commit }) hrob hc]

/-- Complete, it writes its register and leaves (R376, R377). -/
theorem commitStage_md_retires (hs : s.stage = .fetch) (hrob : s.rob = h :: younger) (hop : h.ins.op = .ins i)
    (hkind : kindOf i = .mul ∨ kindOf i = .div) (hc : h.complete = true) :
    commitStage s = .next { s with
      regs := regsWith s h.dest h.result, rst := rstReleased s h.dest h.tag, rob := younger } := by
  refine commitStage_exec hrob hop ?_ hs
  rw [exec_commit_other rfl (.inr (hkind.imp_right .inl)), commitOther_retires (s := { s with stage := .commit }) hrob hc]
  rfl

end

/-! ### From issue to the last tick of the unit -/

/-- A record of the MULDIV pool, with its instruction and its registers. -/
structure MdRecord where
  record : Decoded
  ins : Instr
  dest : Reg
  left : Reg
  right : Reg

/-- The record is the only instruction in the core, about to issue; its latency is `n + 1` ticks (R8). -/
structure MdRecord.Meets (p : MdRecord) (s : State) (n : Nat) : Prop where
  quiet : Quiet s
  iq : s.iq = [p.record]
  op : p.record.op = .ins p.ins
  form : issueTable p.ins = some (mdForm p.left p.right p.dest)
  ticks : latency s.cfg (.ins p.ins) = n + 1

section

variable (p : MdRecord) (s : State)

/-- Its reorder-buffer entry as it issues. -/
def MdRecord.entry : RobEntry := newRobEntry (mdForm p.left p.right p.dest) p.record s.nextTag ⟨0, 0⟩

/-- Its entry of rs_md as it issues. -/
def MdRecord.station : RsEntry :=
  newRsEntry (mdForm p.left p.right p.dest) p.record s.nextTag ⟨readReg s p.left, 0⟩ ⟨readReg s p.right, 0⟩

/-- After the tick of its issue and `k` ticks of the unit, none of them the last. -/
def MdRecord.working (k : Nat) : State :=
  { s with
    iq := [], nextTag := s.nextTag + 1, cycle := s.cycle + (k + 1), rob := [p.entry s]
    rsMd := [{ p.station s with progress := k }], rst := rstClaimed s p.dest s.nextTag }

/-- After the unit's last tick, which follows `working k` and leaves `v`. -/
def MdRecord.finished (k : Nat) (v : Word) : State :=
  { p.working s k with
    cycle := s.cycle + (k + 2), rsMd := [{ p.station s with progress := k + 1, result := v }] }

/-- The same where the tick ends the run: no value, and DivFault for the operation `op` (log entry 17). -/
def MdRecord.faulted (k : Nat) (op : DivOp) : State :=
  { p.working s k with
    rsMd := [{ p.station s with progress := k + 1 }]
    status := .faulted (.divFault p.record.pc op (readReg s p.left) (readReg s p.right)) }

/-- After the tick that follows `finished`: harvested. -/
def MdRecord.harvested (k : Nat) (v : Word) : State :=
  { p.working s k with
    cycle := s.cycle + (k + 3), rsMd := [], rob := [{ p.entry s with complete := true, result := v }] }

end

namespace MdRecord.Meets

variable {p : MdRecord} {s u : State} {n k : Nat} {v : Word}

theorem kind (hp : p.Meets s n) : kindOf p.ins = .mul ∨ kindOf p.ins = .div := kindOf_of_mdForm hp.form rfl

theorem only (hp : p.Meets s n) (hstatus : u.status = s.status) (hstage : u.stage = s.stage) (halu : u.rsAlu = s.rsAlu)
    (hagu : u.rsAgu = s.rsAgu) (hlb : u.lb = s.lb) : MdOnly u := by
  obtain ⟨hr, hst, _, ha, _, hg, hl, _⟩ := hp.quiet
  exact ⟨hstatus.trans hr, hstage.trans hst, halu.trans ha, hagu.trans hg, hlb.trans hl⟩

/-- The record's latency, as the harvest asks for it. -/
theorem record_latency (hp : p.Meets s n) : latency s.cfg p.record.op = n + 1 := by rw [hp.op, hp.ticks]

/-- The first tick: the record issues. -/
theorem first_tick (hp : p.Meets s n) (m : Nat) : backTicks (m + 1) s = backTicks m (p.working s 0) := by
  obtain ⟨hrun, hstage, hrob, halu, hmd, hagu, hlb, hrst, hwait, _⟩ := hp.quiet
  have hm : MemoryOnly s := ⟨hrun, hstage, halu, hmd⟩
  have silent := hm.harvestSet_nil (by simp [hagu]) (by simp [hlb])
  have hform : issueTableOp p.record.op = some (mdForm p.left p.right p.dest) := hp.op ▸ hp.form
  have done := issueStage_issued hrun hstage hwait hp.iq hform rfl (readOperand_free hrst p.record.pc (.reg p.left))
    (readOperand_free hrst p.record.pc (.reg p.right))
  rw [backTicks_succ m (commitStage_empty hrob) hrun (broadcastStage_idle hrun silent) hrun
    (executeStage_memory hm (aguStep_empty hagu) hrun (lbStep_empty hlb)) hrun done hrun]
  simp only [issued, hrob, hmd, mdForm]
  rfl

/-- Commit waits for the result (46_commit.md R376). -/
theorem commit_waits (hp : p.Meets s n) (hstage : u.stage = .fetch) (hrob : u.rob = [p.entry s]) :
    commitStage u = .next u :=
  commitStage_md_waits hstage hrob hp.op hp.kind rfl

/-- Nothing is harvestable while the unit is at work (45_cdb.md R350). -/
theorem broadcast_silent (hp : p.Meets s n) (hless : k < n + 1) :
    broadcastStage (p.working s k) = .next (p.working s k) := by
  have only : MdOnly (p.working s k) := hp.only rfl rfl rfl rfl rfl
  have waiting : ∀ e ∈ (p.working s k).rsMd, e.progress < latency s.cfg e.ins.op := by
    intro e he
    rw [List.mem_singleton.mp he]
    exact hp.record_latency ▸ hless
  exact broadcastStage_idle only.running (only.harvestSet_nil waiting)

/-- The execute stage on the record's entry. -/
theorem execute (hp : p.Meets s n)
    (hexec : exec p.ins { p.working s k with stage := .execute s.nextTag } = .next { u with stage := .execute s.nextTag })
    (hstage : u.stage = s.stage) (hagu : u.rsAgu = s.rsAgu) (hlb : u.lb = s.lb) :
    executeStage (p.working s k) = .next u := by
  have only : MdOnly (p.working s k) := hp.only rfl rfl rfl rfl rfl
  exact only.executeStage_exec rfl hp.op hexec (hstage.trans only.stage) (hagu.trans only.rsAgu) (hlb.trans only.lb)

/-- A tick of the unit that is not the last. -/
theorem counting_tick (hp : p.Meets s n) (hless : k < n) (m : Nat) :
    backTicks (m + 1) (p.working s k) = backTicks m (p.working s (k + 1)) := by
  have only : MdOnly (p.working s k) := hp.only rfl rfl rfl rfl rfl
  have counted := exec_md_counts (s := { p.working s k with stage := .execute s.nextTag }) rfl
    (firstWhere_singleton rfl rfl) rfl rfl hp.kind (hp.ticks ▸ Nat.succ_lt_succ hless)
  exact backTicks_succ m (hp.commit_waits only.stage rfl) only.running (hp.broadcast_silent (by omega)) only.running
    (hp.execute (u := { p.working s k with rsMd := [{ p.station s with progress := k + 1 }] }) counted rfl rfl rfl)
    only.running (issueStage_empty rfl) only.running

/-- Ticks of the unit, none of them the last. -/
theorem counting_ticks (hp : p.Meets s n) (hk : k ≤ n) (m : Nat) :
    backTicks (k + m) (p.working s 0) = backTicks m (p.working s k) := by
  induction k generalizing m with
  | zero => rw [Nat.zero_add]
  | succ k ih => rw [show k + 1 + m = k + (m + 1) by omega, ih (by omega), hp.counting_tick hk]

/-- The tick of the issue and those of the unit but the last. -/
theorem reaches_last (hp : p.Meets s n) (m : Nat) : backTicks (n + 1 + m) s = backTicks m (p.working s n) := by
  rw [show n + 1 + m = n + m + 1 by omega, hp.first_tick, hp.counting_ticks (Nat.le_refl n)]

/-! ### Retirement -/

/-- The unit's last tick, where there is a value. -/
theorem last_tick (hp : p.Meets s n) (hv : IsMdValue p.ins (readReg s p.left) (readReg s p.right) v) (m : Nat) :
    backTicks (m + 1) (p.working s n) = backTicks m (p.finished s n v) := by
  have only : MdOnly (p.working s n) := hp.only rfl rfl rfl rfl rfl
  have done := exec_md_finishes (s := { p.working s n with stage := .execute s.nextTag })
    (e := { p.station s with progress := n }) rfl (firstWhere_singleton rfl rfl) rfl rfl hp.ticks.symm hv
  exact backTicks_succ m (hp.commit_waits only.stage rfl) only.running (hp.broadcast_silent (by omega)) only.running
    (hp.execute (u := { p.working s n with rsMd := [{ p.station s with progress := n + 1, result := v }] }) done rfl rfl
      rfl) only.running (issueStage_empty rfl) only.running

/-- The harvest completes the entry, which is no ECALL (45_cdb.md R352). -/
theorem marked (hp : p.Meets s n) (v : Word) :
    markEntry v (p.entry s) = { p.entry s with complete := true, result := v } := by
  have hsys : isSyscall (p.entry s).ins.op = false :=
    (congrArg isSyscall hp.op).trans (isSyscall_of_kind (by rcases hp.kind with h | h <;> simp [h]))
  simp [markEntry, hsys]

/-- The tick after: the result is harvested, while commit waits. -/
theorem harvest_tick (hp : p.Meets s n) (m : Nat) :
    backTicks (m + 1) (p.finished s n v) = backTicks m (p.harvested s n v) := by
  obtain ⟨_, _, _, _, _, _, _, _, _, htag⟩ := hp.quiet
  have only : MdOnly (p.finished s n v) := hp.only rfl rfl rfl rfl rfl
  have done := only.broadcastStage_done rfl (Nat.le_of_eq hp.record_latency) (h := p.entry s) rfl rfl
    (Nat.ne_of_lt htag)
  rw [backTicks_succ_idle m (hp.commit_waits only.stage rfl) only.running done
    ⟨only.running, only.stage, only.rsAlu, rfl⟩ only.rsAgu only.lb rfl]
  simp only [hp.marked]
  rfl

/-- The tick of the commit; the register claimed at issue is released. -/
theorem commit_tick (hp : p.Meets s n) :
    backTicks 1 (p.harvested s n v) = .next (retiredWith s (n + 4) p.dest v) := by
  obtain ⟨hrun, hstage, hrob, halu, hmd, hagu, hlb, hrst, _⟩ := hp.quiet
  have free : rstReleased (p.harvested s n v) p.dest s.nextTag = clearAll := rstReleased_of_claimed hrst rfl rfl
  have left : MemoryOnly { p.harvested s n v with regs := regsWith s p.dest v, rst := clearAll, rob := [] } :=
    ⟨hrun, hstage, halu, rfl⟩
  have retires : commitStage (p.harvested s n v) =
      .next { p.harvested s n v with regs := regsWith s p.dest v, rst := clearAll, rob := [] } := by
    rw [← free]
    exact commitStage_md_retires (s := p.harvested s n v) hstage rfl hp.op hp.kind rfl
  have silent := left.harvestSet_nil (by simp [harvested, working, hagu]) (by simp [harvested, working, hlb])
  rw [backTicks_succ_idle 0 retires left.running (broadcastStage_idle left.running silent) left hagu hlb rfl, backTicks]
  simp only [retiredWith, harvested, working, hrob, hmd, hrst]
  rfl

/-- A record with a value retires three ticks after its latency. -/
theorem retires (hp : p.Meets s n) (hv : IsMdValue p.ins (readReg s p.left) (readReg s p.right) v) :
    backTicks (n + 4) s = .next (retiredWith s (n + 4) p.dest v) := by
  rw [show n + 4 = n + 1 + 3 by omega, hp.reaches_last, hp.last_tick hv, hp.harvest_tick, hp.commit_tick]

/-! ### DivFault -/

/-- A division's corner case under DIV_CORNER = fault ends the run in the unit's last tick (42_muldiv.md R250). -/
theorem faults (hp : p.Meets s n) {op : DivOp} (hop : divOpOf p.ins = some op)
    (hcorner : IsDivCorner op (readReg s p.left) (readReg s p.right)) (hfault : s.cfg.divCorner = .fault) :
    backTicks (n + 2) s = .next (p.faulted s n op) := by
  have only : MdOnly (p.working s n) := hp.only rfl rfl rfl rfl rfl
  have hlast : n + 1 = s.cfg.divLat := (latency_div s.cfg (kindOf_of_divOpOf hop) ▸ hp.ticks).symm
  have done := exec_div_faults (s := { p.working s n with stage := .execute s.nextTag })
    (e := { p.station s with progress := n }) rfl (firstWhere_singleton rfl rfl) rfl rfl hop hlast
    (hfault ▸ divide_fault hcorner)
  rw [show n + 2 = n + 1 + 1 by omega, hp.reaches_last]
  exact backTicks_faults 0 (hp.commit_waits only.stage rfl) only.running (hp.broadcast_silent (by omega)) only.running
    (hp.execute (u := p.faulted s n op) done rfl rfl rfl) (by simp [faulted])

end MdRecord.Meets

/-- Settles O49: issue, MUL_LAT ticks of the unit, harvest and commit. -/
theorem mulAlone : Obligations.MulAlone := by
  intro s r i rd a b v ⟨hquiet, hiq⟩ ⟨hlat, _⟩ hop hform hv
  obtain ⟨n, hn⟩ : ∃ n, s.cfg.mulLat = n + 1 := Nat.exists_eq_add_of_le' hlat
  have hp : MdRecord.Meets ⟨r, i, rd, a, b⟩ s n :=
    ⟨hquiet, hiq, hop, hform, (latency_mul s.cfg (kindOf_of_mulTable hv)).trans hn⟩
  rw [hn]
  exact hp.retires (.inl hv)

/-- Settles O50: issue and DIV_LAT ticks of the unit, the last of which faults or leaves the value for harvest and commit. -/
theorem divAlone : Obligations.DivAlone := by
  intro s r i op rd a b ⟨hquiet, hiq⟩ ⟨_, hless, _⟩ hop hdiv hform
  obtain ⟨n, hn⟩ : ∃ n, s.cfg.divLat = n + 1 := Nat.exists_eq_add_of_le' (Nat.one_le_of_lt hless)
  have hp : MdRecord.Meets ⟨r, i, rd, a, b⟩ s n :=
    ⟨hquiet, hiq, hop, hform, (latency_div s.cfg (kindOf_of_divOpOf hdiv)).trans hn⟩
  rw [hn]
  exact ⟨fun hcorner => hp.retires (.inr ⟨op, hdiv, hcorner, rfl⟩),
    fun hcorner hfault => ⟨_, hp.faults hdiv hcorner hfault, rfl, rfl, rfl, rfl⟩⟩

end Sys2Proof.Machine
end

section
/-! PROOFS. Address generation of every form (43_load_store_amo.md R260 to R264), as the whole next state. -/

namespace Sys2Proof.Machine

section

variable {s : State} {t : Tag} {before after : List RsEntry} {e : RsEntry} {older younger : List RobEntry} {h : RobEntry}

/-- The unit's own test for the entry it takes (R260). -/
theorem firstWhere_entryReady (hagu : FirstWhere (fun x => Eligible t x ∧ x.progress = 0) s.rsAgu before e after) :
    FirstWhere (fun x => (entryReady t x && x.progress == 0) = true) s.rsAgu before e after := by
  simpa [FirstWhere, entryReady, RsEntry.ready, Eligible, and_assoc] using hagu

theorem setAddress_owner (a : Word) (ho : Owner s t older h younger) :
    setAddress t a s = { s with rob := older ++ { h with addr := a, addrReady := true } :: younger } :=
  updateRob_owner _ ho

/-- SC.W and the AMOs (R263). -/
theorem aguAmo_owner (hagu : FirstWhere (fun x => Eligible t x ∧ x.progress = 0) s.rsAgu before e after)
    (ho : Owner s t older h younger) :
    aguAmo t s = { s with
      rsAgu := before ++ after, lb := insertLb (newLbEntry e e.vk) s.lb
      rob := older ++ { h with addr := effectiveAddress e, addrReady := true } :: younger } := by
  unfold aguAmo
  rw [(aguEntry_split hagu).1, robAt_owner ho]
  dsimp only
  rw [setAddress_owner _ ho]
  exact (aguEntry_split (s := { s with
    lb := insertLb (newLbEntry e e.vk) s.lb
    rob := older ++ { h with addr := effectiveAddress e, addrReady := true } :: younger }) hagu).2

/-- LR.W stays in rs_agu with its result (R264). -/
theorem aguLoadReserved_owner (hagu : FirstWhere (fun x => Eligible t x ∧ x.progress = 0) s.rsAgu before e after)
    (ho : Owner s t older h younger) :
    aguLoadReserved t s = { s with
      rsAgu := before ++ { e with result := 0, progress := 1 } :: after
      rob := older ++ { h with addr := effectiveAddress e, addrReady := true } :: younger } := by
  unfold aguLoadReserved
  rw [(aguEntry_split hagu).1, robAt_owner ho]
  dsimp only
  rw [setAddress_owner _ ho, updateFirst_split _ (firstWhere_entryReady hagu)]

end

/-- Settles O35: each form's own address generation; the new entry's place in the load buffer is insertLb's. -/
theorem addressGeneration : Obligations.AddressGeneration := by
  intro i s t before after e older younger h hstage hfirst
  obtain ⟨rfl, _⟩ := hfirst.2.1.1
  refine ⟨fun hkind => ?load, fun ho => ⟨fun ⟨w, hkind⟩ => ?store, fun hkind => ?amo, fun hkind => ?loadReserved⟩⟩
  case load =>
    obtain ⟨lo, hi, hlb, hlo, hhi, hins⟩ := insertLb_split (newLbEntry e 0) s.lb
    refine ⟨lo, hi, hlb, hlo, hhi, ?_⟩
    rw [exec_execute_load hstage hkind, aguLoad_split hfirst, hins]
    rfl
  case store =>
    rw [exec_execute_store hstage hkind, aguStore_owner hfirst ho]
    rfl
  case amo =>
    obtain ⟨lo, hi, hlb, hlo, hhi, hins⟩ := insertLb_split (newLbEntry e e.vk) s.lb
    refine ⟨lo, hi, hlb, hlo, hhi, ?_⟩
    rw [exec_execute_amo hstage hkind, aguAmo_owner hfirst ho, hins]
    rfl
  case loadReserved =>
    rw [exec_execute_loadReserved hstage hkind, aguLoadReserved_owner hfirst ho]
    rfl

end Sys2Proof.Machine
end

section
/-! PROOFS. The load buffer (43_load_store_amo.md R270 to R281): the disambiguation scan, and the ticks of an entry that is
cleared, for the loads, SC.W and the AMOs alike. -/

namespace Sys2Proof.Machine

/-! ### The instructions of the load buffer -/

/-- `i` works in the load buffer on an access of width `w`: a load of that width, or SC.W or an AMO. -/
def Buffered (i : Instr) (w : Width) : Prop :=
  (∃ sign rd a imm, loadShape i = some (w, sign, rd, a, imm)) ∨ (kindOf i = .amo ∧ w = .word)

/-- What the load-buffer step of `i` does with the value it has (43_load_store_amo.md R279 to R281). -/
def finishOf (c : Config) (i : Instr) : LbEntry → Word → State → State :=
  match loadShape i with
  | some (w, sign, _) => finishLoad w sign
  | none => finishAmo (fun old _ => amoResult c i old) (fun old src => (amoTable i old src).getD 0)

section

variable {i : Instr} {w : Width} {s : State} {t : Tag}

theorem buffered_of_kind (h : kindOf i = .load ∨ kindOf i = .amo) : ∃ w, Buffered i w := by
  rcases h with h | h
  · obtain ⟨w, sign, rd, a, imm, hshape⟩ := loadShape_of_kind h
    exact ⟨w, .inl ⟨sign, rd, a, imm, hshape⟩⟩
  · exact ⟨.word, .inr ⟨h, rfl⟩⟩

theorem finishOf_load {sign : Bool} {rd a : Reg} {imm : Word} (c : Config)
    (h : loadShape i = some (w, sign, rd, a, imm)) : finishOf c i = finishLoad w sign := by
  rw [finishOf, h]

theorem loadShape_amo (h : kindOf i = .amo) : loadShape i = none := by
  cases i <;> cases h <;> rfl

theorem finishOf_amo (c : Config) (h : kindOf i = .amo) : finishOf c i =
    finishAmo (fun old _ => amoResult c i old) (fun old src => (amoTable i old src).getD 0) := by
  rw [finishOf, loadShape_amo h]

theorem kindOf_of_amoTable {old src new : Word} (h : amoTable i old src = some new) : kindOf i = .amo := by
  cases i <;> cases h <;> rfl

/-- exec at the load-buffer stage. -/
theorem exec_load_buffered (hs : s.stage = .load t) (h : Buffered i w) :
    exec i s = .next (lbAdvance w (finishOf s.cfg i) t s) := by
  rcases h with ⟨sign, rd, a, imm, hshape⟩ | ⟨hkind, rfl⟩
  · rw [finishOf_load _ hshape, exec_load_load hs hshape]
  · obtain ⟨result, new, hexec, tables⟩ := exec_load_amo hs hkind
    have hresult : result = fun old _ => amoResult s.cfg i old := funext fun old => funext fun src => (tables old src).1
    have hnew : new = fun old src => (amoTable i old src).getD 0 :=
      funext fun old => funext fun src => by rw [(tables old src).2, Option.getD_some]
    rw [hexec, finishOf_amo _ hkind, hresult, hnew]

end

/-! ### The disambiguation scan -/

section

variable {i : Instr} {w ws : Width} {s : State} {t : Tag} {before after : List LbEntry} {l : LbEntry}
  {first second younger : List RobEntry} {g h : RobEntry}

/-- The scan stands at the youngest older entry that it does not pass by. -/
theorem disambiguate_at (ho : Owner s l.owner (first ++ h :: second) g younger) (hpass : ∀ x ∈ second, Passed l.addr x) :
    disambiguate s l w = scanOlder s.cfg l w (h :: first.reverse) := by
  rw [disambiguate_owner w ho, List.reverse_append, List.reverse_cons, List.append_assoc,
    scanOlder_passed fun x hx => hpass x (List.mem_reverse.mp hx)]
  rfl

theorem disambiguate_passed {older : List RobEntry} (ho : Owner s l.owner older g younger)
    (hpass : ∀ x ∈ older, Passed l.addr x) : disambiguate s l w = .memory := by
  rw [disambiguate_owner w ho, ← List.append_nil older.reverse,
    scanOlder_passed fun x hx => hpass x (List.mem_reverse.mp hx)]
  rfl

theorem scanOlder_stalls (c : Config) (rest : List RobEntry) (hstore : storeWidth h.ins.op ≠ none)
    (hwait : h.addrReady = false ∨ (h.addr = l.addr ∧ h.valueReady = false)) :
    scanOlder c l w (h :: rest) = .stall := by
  obtain ⟨ws, hws⟩ := Option.ne_none_iff_exists'.mp hstore
  rw [scanOlder, hws]
  rcases hwait with haddr | ⟨hsame, hvalue⟩
  · exact if_pos haddr
  · simp [hsame, hvalue]

theorem lowBytes_eq_mod (w : Width) (v : Word) : lowBytes w v = BitVec.ofNat 32 (v.toNat % 2 ^ widthBits w) := by
  apply BitVec.eq_of_toNat_eq
  have := v.isLt
  cases w with
  | byte | half => simp [lowBytes, widthBits, widthBytes]
  | word => simp [lowBytes, widthBits, widthBytes, Nat.mod_eq_of_lt this]

/-- A match that is ready, and wide enough or taken raw, forwards its low bytes (R274, R277). -/
theorem scanOlder_forwards {c : Config} (rest : List RobEntry) (hws : storeWidth h.ins.op = some ws)
    (haddr : h.addrReady = true) (hsame : h.addr = l.addr) (hvalue : h.valueReady = true)
    (hwide : widthBytes w ≤ widthBytes ws ∨ c.fwdWider = .raw) :
    scanOlder c l w (h :: rest) = .forward (lowBytes w h.wb) := by
  have found : forwardFrom c l w ws h = .forward (lowBytes w h.wb) := by
    by_cases hw : widthBytes w ≤ widthBytes ws
    · exact if_pos hw
    · rw [forwardFrom, if_neg hw, hwide.resolve_left hw]
  rw [scanOlder, hws]
  simp [haddr, hsame, hvalue, found]

/-- The first entry of a tag, its ticks not over, is the one the step works on. -/
theorem firstWhere_working (hfirst : FirstWhere (fun x => x.owner = t) s.lb before l after)
    (hless : l.progress < s.cfg.cacheLat) : FirstWhere (Working s t) s.lb before l after :=
  ⟨hfirst.1, ⟨hfirst.2.1, hless⟩, fun y hy hw => hfirst.2.2 y hy hw.1⟩

/-- The answer of a scan that clears its entry with this forwarded value, or with none. -/
def clearingScan (fwd : Option Word) : Scan := fwd.elim .memory .forward

/-- The step behind the scan writes its entry back, whatever stood in that entry's place. -/
theorem lbProceed_rewritten {m : LbEntry} (fin : LbEntry → Word → State → State)
    (hfirst : FirstWhere (fun x => x.owner = m.owner) s.lb before l after) :
    lbProceed w fin m s = lbProceed w fin m { s with lb := before ++ m :: after } := by
  have stored (u : State) (x : LbEntry) (hu : u.lb = before ++ x :: after) (hx : x.owner = m.owner) :
      setLb { m with progress := m.progress + 1 } u =
        { u with lb := before ++ { m with progress := m.progress + 1 } :: after } :=
    setLb_split ⟨hu, hx, hfirst.2.2⟩
  unfold lbProceed
  dsimp only
  rw [stored s l hfirst.1 hfirst.2.1, stored { s with lb := before ++ m :: after } m rfl rfl]

/-- R275: a scan that clears its entry leaves the rest of the step to the cleared entry. -/
theorem exec_clears (hi : Buffered i w) (hs : s.stage = .load t)
    (hfirst : FirstWhere (fun x => x.owner = t) s.lb before l after) (hless : l.progress < s.cfg.cacheLat)
    (huncleared : l.cleared = false) {fwd : Option Word} (hscan : disambiguate s l w = clearingScan fwd) :
    exec i s = exec i { s with lb := before ++ clearedEntry l fwd :: after } := by
  obtain ⟨hlb, rfl, hbefore⟩ := hfirst
  have hfirst : FirstWhere (fun x => x.owner = l.owner) s.lb before l after := ⟨hlb, rfl, hbefore⟩
  have cleared : FirstWhere (Working { s with lb := before ++ clearedEntry l fwd :: after } l.owner)
      (before ++ clearedEntry l fwd :: after) before (clearedEntry l fwd) after :=
    firstWhere_working (s := { s with lb := before ++ clearedEntry l fwd :: after }) ⟨rfl, rfl, hbefore⟩ hless
  have scanned : lbAdvance w (finishOf s.cfg i) l.owner s = lbProceed w (finishOf s.cfg i) (clearedEntry l fwd) s := by
    rw [lbAdvance_split w _ (firstWhere_working hfirst hless), if_neg (by simp [huncleared]), hscan]
    cases fwd <;> rfl
  rw [exec_load_buffered hs hi, exec_load_buffered (s := { s with lb := before ++ clearedEntry l fwd :: after }) hs hi,
    scanned, lbAdvance_split w _ cleared, if_pos (show (clearedEntry l fwd).cleared = true from rfl)]
  exact congrArg _ (lbProceed_rewritten _ hfirst)

end

/-- Settles O36: the scan's answer is a stall, and the step leaves the state alone. -/
theorem scanStalls : Obligations.ScanStalls := by
  intro i s t before after l first second younger g h hkind hstage hfirst huncleared ho hpass hstore hwait
  obtain ⟨w, hi⟩ := buffered_of_kind hkind
  obtain ⟨rfl, _⟩ := hfirst.2.1
  rw [exec_load_buffered hstage hi, lbAdvance_split w _ hfirst, if_neg (by simp [huncleared]), disambiguate_at ho hpass,
    scanOlder_stalls _ _ hstore hwait]

/-- Settles O37: the scan's answer is the low bytes of the match. -/
theorem scanForwards : Obligations.ScanForwards := by
  intro i wl ws s t before after l first second younger g h hi hstage hfirst hless huncleared ho hpass hws haddr hsame
    hvalue hwide
  obtain rfl := hfirst.2.1
  rw [← lowBytes_eq_mod]
  exact exec_clears hi hstage hfirst hless huncleared
    ((disambiguate_at ho hpass).trans (scanOlder_forwards _ hws haddr hsame hvalue hwide))

/-- Settles O38: the scan's answer is memory. -/
theorem scanFindsNoStore : Obligations.ScanFindsNoStore := by
  intro i s t before after l older younger g hkind hstage hfirst hless huncleared ho hpass
  obtain ⟨w, hi⟩ := buffered_of_kind hkind
  obtain rfl := hfirst.2.1
  exact exec_clears hi hstage hfirst hless huncleared (disambiguate_passed ho hpass)

/-! ### The ticks of a cleared entry -/

/-- The value that the last tick of a cleared entry has: forwarded, or read where the access is allowed (R278). -/
def HasValue (s : State) (l : LbEntry) (w : Width) (v : Word) : Prop :=
  l.fwd = some v ∨
    (l.fwd = none ∧ Allowed s.cfg l.addr (widthBytes w) ∧ v = memRead s.mem l.addr (widthBytes w))

/-- The entry after one more tick. -/
def LbEntry.counted (l : LbEntry) : LbEntry := { l with progress := l.progress + 1 }

section

variable {i : Instr} {w : Width} {s : State} {t : Tag} {before after : List LbEntry} {l : LbEntry} {v : Word}

theorem setLb_counted (hfirst : FirstWhere (fun x => x.owner = l.owner) s.lb before l after) :
    setLb l.counted s = { s with lb := before ++ l.counted :: after } :=
  setLb_split hfirst

/-- The step on a cleared entry is what follows the scan. -/
theorem exec_cleared (hi : Buffered i w) (hs : s.stage = .load l.owner)
    (hfirst : FirstWhere (fun x => x.owner = l.owner) s.lb before l after) (hcleared : l.cleared = true)
    (hless : l.progress < s.cfg.cacheLat) : exec i s = .next (lbProceed w (finishOf s.cfg i) l s) := by
  rw [exec_load_buffered hs hi, lbAdvance_split w _ (firstWhere_working hfirst hless), if_pos hcleared]

theorem lbProceed_counts (fin : LbEntry → Word → State → State) (hless : l.progress + 1 < s.cfg.cacheLat) :
    lbProceed w fin l s = setLb l.counted s :=
  if_neg (Nat.ne_of_lt hless)

theorem lbProceed_finishes (fin : LbEntry → Word → State → State) (hlast : l.progress + 1 = s.cfg.cacheLat)
    (hv : HasValue s l w v) : lbProceed w fin l s = fin l.counted v (setLb l.counted s) := by
  rcases hv with hfwd | ⟨hfwd, hallowed, rfl⟩
  · simp [lbProceed, LbEntry.counted, hlast, hfwd]
  · simp [lbProceed, LbEntry.counted, hlast, hfwd, accessFault_allowed hallowed]

theorem lbProceed_faults (fin : LbEntry → Word → State → State) (hlast : l.progress + 1 = s.cfg.cacheLat)
    (hfwd : l.fwd = none) {f : Fault} (hf : accessFault s.cfg l.addr (widthBytes w) = some f) :
    lbProceed w fin l s = raise f (setLb l.counted s) := by
  simp [lbProceed, LbEntry.counted, hlast, hfwd, hf]

/-- A tick before the last. -/
theorem exec_cleared_counts (hi : Buffered i w) (hs : s.stage = .load l.owner)
    (hfirst : FirstWhere (fun x => x.owner = l.owner) s.lb before l after) (hcleared : l.cleared = true)
    (hless : l.progress + 1 < s.cfg.cacheLat) :
    exec i s = .next { s with lb := before ++ l.counted :: after } := by
  rw [exec_cleared hi hs hfirst hcleared (Nat.lt_of_succ_lt hless), lbProceed_counts _ hless, setLb_counted hfirst]

/-- The last tick of an entry that has its value. -/
theorem exec_cleared_finishes (hi : Buffered i w) (hs : s.stage = .load l.owner)
    (hfirst : FirstWhere (fun x => x.owner = l.owner) s.lb before l after) (hcleared : l.cleared = true)
    (hlast : l.progress + 1 = s.cfg.cacheLat) (hv : HasValue s l w v) :
    exec i s = .next (finishOf s.cfg i l.counted v { s with lb := before ++ l.counted :: after }) := by
  rw [exec_cleared hi hs hfirst hcleared (Nat.lt_of_succ_le (Nat.le_of_eq hlast)), lbProceed_finishes _ hlast hv,
    setLb_counted hfirst]

/-- The last tick of an entry whose read fails a check (60_exceptions.md R409): the tick stands (log entry 17). -/
theorem exec_cleared_faults (hi : Buffered i w) (hs : s.stage = .load l.owner)
    (hfirst : FirstWhere (fun x => x.owner = l.owner) s.lb before l after) (hcleared : l.cleared = true)
    (hlast : l.progress + 1 = s.cfg.cacheLat) (hfwd : l.fwd = none) {f : Fault}
    (hf : accessFault s.cfg l.addr (widthBytes w) = some f) :
    exec i s = .next { s with lb := before ++ l.counted :: after, status := .faulted f } := by
  rw [exec_cleared hi hs hfirst hcleared (Nat.lt_of_succ_le (Nat.le_of_eq hlast)), lbProceed_faults _ hlast hfwd hf,
    setLb_counted hfirst]
  rfl

/-- The extension by number (R279). -/
theorem extend_eq_loadedValue (w : Width) (sign : Bool) (v : Word) : extend w sign v = loadedValue w sign v := by
  have unsigned (n : Nat) (hn : n ≤ 32) : (v.extractLsb' 0 n).setWidth 32 = BitVec.ofNat 32 (v.toNat % 2 ^ n) := by
    apply BitVec.eq_of_toNat_eq
    simp
  cases w with
  | byte =>
    cases sign with
    | true => rfl
    | false => exact unsigned 8 (by omega)
  | half =>
    cases sign with
    | true => rfl
    | false => exact unsigned 16 (by omega)
  | word => rfl

/-- The last tick of a load leaves the extended value. -/
theorem exec_load_finishes {sign : Bool} {rd a : Reg} {imm : Word} (hshape : loadShape i = some (w, sign, rd, a, imm))
    (hs : s.stage = .load l.owner) (hfirst : FirstWhere (fun x => x.owner = l.owner) s.lb before l after)
    (hcleared : l.cleared = true) (hlast : l.progress + 1 = s.cfg.cacheLat) (hv : HasValue s l w v) :
    exec i s = .next { s with lb := before ++ { l.counted with result := loadedValue w sign v } :: after } := by
  rw [exec_cleared_finishes (.inl ⟨sign, rd, a, imm, hshape⟩) hs hfirst hcleared hlast hv, finishOf_load _ hshape,
    finishLoad, extend_eq_loadedValue]
  exact congrArg _ (setLb_split (s := { s with lb := before ++ l.counted :: after }) (l := l.counted)
    ⟨rfl, rfl, hfirst.2.2⟩)

/-- The last tick of SC.W or an AMO also gives its owner the result and the word to write (R280, R281). -/
theorem exec_amo_finishes {new : Word} {older younger : List RobEntry} {h : RobEntry} (hnew : amoTable i v l.src = some new)
    (hs : s.stage = .load l.owner) (hfirst : FirstWhere (fun x => x.owner = l.owner) s.lb before l after)
    (hcleared : l.cleared = true) (ho : Owner s l.owner older h younger) (hlast : l.progress + 1 = s.cfg.cacheLat)
    (hv : HasValue s l .word v) :
    exec i s = .next { s with
      lb := before ++ { l.counted with result := amoResult s.cfg i v } :: after
      rob := older ++ { h with result := amoResult s.cfg i v, wb := new, valueReady := true } :: younger } := by
  have hkind := kindOf_of_amoTable hnew
  have stored := setLb_split (s := { s with lb := before ++ l.counted :: after }) (l := l.counted)
    (m := { l.counted with result := amoResult s.cfg i v }) (before := before) (after := after) ⟨rfl, rfl, hfirst.2.2⟩
  have owned : Owner { s with lb := before ++ { l.counted with result := amoResult s.cfg i v } :: after } l.owner older h
      younger := ho
  rw [exec_cleared_finishes (.inr ⟨hkind, rfl⟩) hs hfirst hcleared hlast hv, finishOf_amo _ hkind, finishAmo, stored]
  dsimp only [LbEntry.counted] at owned ⊢
  rw [robAt_owner owned]
  dsimp only
  rw [hnew, updateRob_owner _ owned, Option.getD_some]

end

/-- Settles O40: a tick counts, and the last one extends what was forwarded or read. -/
theorem loadReads : Obligations.LoadReads := by
  intro i w sign rd a imm s t before after l hshape hstage hfirst hcleared
  obtain rfl := hfirst.2.1
  refine ⟨exec_cleared_counts (.inl ⟨sign, rd, a, imm, hshape⟩) hstage hfirst hcleared, fun hlast v hfwd => ?forwarded,
    fun hlast hfwd hallowed => ?read⟩
  case forwarded => exact exec_load_finishes hshape hstage hfirst hcleared hlast (.inl hfwd)
  case read => exact exec_load_finishes hshape hstage hfirst hcleared hlast (.inr ⟨hfwd, hallowed, rfl⟩)

/-- Settles O41: a tick counts, and the last one combines what was forwarded or read with the source value. -/
theorem atomicReads : Obligations.AtomicReads := by
  intro i old new s t before after l older younger h hnew hstage hfirst hcleared ho
  obtain rfl := hfirst.2.1
  exact ⟨exec_cleared_counts (.inr ⟨kindOf_of_amoTable hnew, rfl⟩) hstage hfirst hcleared,
    exec_amo_finishes hnew hstage hfirst hcleared ho⟩

/-- Settles O42: the two faults of the access checks, in their order. -/
theorem readFaults : Obligations.ReadFaults := by
  intro i w s t before after l hi hstage hfirst hcleared hfwd hlast
  obtain rfl := hfirst.2.1
  obtain ⟨misaligned, unmapped, _⟩ := accessChecks s.cfg l.addr (widthBytes w)
  exact ⟨fun h => exec_cleared_faults hi hstage hfirst hcleared hlast hfwd (misaligned h),
    fun h hr => exec_cleared_faults hi hstage hfirst hcleared hlast hfwd (unmapped h hr)⟩

end Sys2Proof.Machine
end

section
/-! PROOFS. The memory unit alone in the core: one load, store, SC.W, AMO or LR.W from its issue to the commit, tick by tick
(43_load_store_amo.md R261 to R264, R270, R283 to R301; 46_commit.md R372; 70_reset_and_hazards.md R445). -/

namespace Sys2Proof.Machine

/-! ### The instructions of the memory unit -/

section

variable {i : Instr} {form : IssueForm} {w : Width}

/-- What issues into rs_agu (30_encoding.md R110). -/
theorem kindOf_of_aguForm (h : issueTable i = some form) (hpool : form.pool = .agu) :
    (kindOf i = .load ∨ kindOf i = .loadReserved) ∨ ∃ w, storeWidth (.ins i) = some w := by
  cases i <;> cases h <;> cases hpool <;> simp [kindOf, storeWidth, opKind]

theorem isJalr_of_aguForm (h : issueTable i = some form) (hpool : form.pool = .agu) : isJalr i = false := by
  cases i <;> cases h <;> cases hpool <;> rfl

/-- A load has no second operand (30_encoding.md R111). -/
theorem loadForm_of_kind (h : issueTable i = some form) (hkind : kindOf i = .load) : form.k = .const 0 := by
  cases i <;> cases hkind <;> cases h <;> rfl

theorem noData_of_kind (h : issueTable i = some form) (hkind : kindOf i = .amo ∨ kindOf i = .loadReserved) :
    form.data = none := by
  rcases hkind with hkind | hkind <;> cases i <;> cases hkind <;> cases h <;> rfl

theorem storeWidth_amo (h : kindOf i = .amo) : storeWidth (.ins i) = some .word := by
  simp [storeWidth, opKind, h]

theorem Buffered.kind (h : Buffered i w) : kindOf i = .load ∨ kindOf i = .amo := by
  rcases h with ⟨sign, rd, a, imm, hshape⟩ | ⟨hkind, _⟩
  · exact .inl (loadShape_form hshape).2.1
  · exact .inr hkind

end

/-! ### Units and commit on known entries -/

section

variable {s u : State} {h : RobEntry} {younger : List RobEntry} {i : Instr} {w : Width} {e : RsEntry} {l m : LbEntry}

/-- Address generation on the only entry of rs_agu, by what its instruction leaves. -/
theorem aguStep_exec (hagu : s.rsAgu = [e]) (hop : e.ins.op = .ins i)
    (hexec : exec i { s with stage := .execute e.dest } = .next { u with stage := .execute e.dest })
    (hu : u.stage = .fetch) : aguStep s = .next u := by
  rw [aguStep, hagu]
  refine runEntries_single ?_
  rw [hop]
  exact execAt_exec hexec hu

/-- The load-buffer step on the only entry, by what its instruction leaves. -/
theorem lbStep_exec (hlb : s.lb = [l]) (hop : l.ins.op = .ins i)
    (hexec : exec i { s with stage := .load l.owner } = .next { u with stage := .load l.owner })
    (hu : u.stage = .fetch) : lbStep s = .next u := by
  rw [lbStep, hlb]
  refine runEntries_single ?_
  rw [hop]
  exact execAt_exec hexec hu

/-- Two load buffers of one entry each, on which the instruction does the same. -/
theorem lbStep_congr (hs : s.lb = [l]) (hu : u.lb = [m]) (howner : m.owner = l.owner) (hl : l.ins.op = .ins i)
    (hm : m.ins.op = .ins i)
    (hexec : exec i { s with stage := .load l.owner } = exec i { u with stage := .load l.owner }) :
    lbStep s = lbStep u := by
  rw [lbStep, lbStep, hs, hu]
  simp only [List.map_cons, List.map_nil, howner, hl, hm, runEntries, execAt, execOp, hexec]

/-- The execute stage is the load-buffer step behind address generation. -/
theorem executeStage_lbStep (hs : MemoryOnly s) (hagu : aguStep s = .next u) (hu : u.status = .running) :
    executeStage s = lbStep u := by
  obtain ⟨v, hv⟩ : Answers (lbStep u) := runEntries_answers _ _ u
  rw [executeStage_memory hs hagu hu hv, hv]

/-- Nothing is harvestable where address generation has done nothing and no load-buffer entry is done (45_cdb.md R350). -/
theorem MemoryOnly.broadcastStage_silent (hs : MemoryOnly s) (hagu : ∀ e ∈ s.rsAgu, e.progress = 0)
    (hlb : ∀ l ∈ s.lb, l.progress < s.cfg.cacheLat) : broadcastStage s = .next s := by
  have agu : s.rsAgu.filter aguDone = [] := List.filter_eq_nil_iff.2 fun e he => by simp [aguDone, hagu e he]
  have lb : s.lb.filter (lbDone s.cfg) = [] := List.filter_eq_nil_iff.2 fun l hl => by simp [lbDone, hlb l hl]
  exact broadcastStage_idle hs.running (by simp [harvestSet, hs.rsAlu, hs.rsMd, agu, lb])

/-- The broadcast of one harvested result to its owner, alone in the reorder buffer, where no pool awaits it. -/
theorem MemoryOnly.broadcastStage_single {x : Harvested} (hu : MemoryOnly u) (hs : harvestSet s = [x])
    (hremoved : removeHarvested x s = u) (hagu : u.rsAgu = []) (hrob : u.rob = [h]) (howner : x.tag = h.tag)
    (hdata : h.storeQ ≠ h.tag) : broadcastStage s = .next { u with rob := [markEntry x.value h] } := by
  have marked : updateRob h.tag (markEntry x.value) u = { u with rob := [markEntry x.value h] } := by
    simp [updateRob, updateFirst, hrob]
  have harvested : harvestAll (harvestSet s) s [] = ({ u with rob := [markEntry x.value h] }, messageOf h x) := by
    rw [hs, harvestAll, hremoved, howner, robAt_head hrob]
    dsimp only
    rw [marked]
    rfl
  rw [broadcastStage, harvested]
  dsimp only
  rw [if_pos hu.running]
  have left : MemoryOnly { u with rob := [markEntry x.value h] } := ⟨hu.running, hu.stage, hu.rsAlu, hu.rsMd⟩
  refine congrArg _ (left.deliverAll_unheard hagu rfl _ fun m hm he => hdata ?_)
  exact (markEntry_storeQ _ h).symm.trans (he.trans ((messageOf_tag hm).trans howner))

/-- The broadcast of an LR.W that is done, to its owner, alone in the reorder buffer. -/
theorem MemoryOnly.broadcastStage_reserved (hs : MemoryOnly s) (hagu : s.rsAgu = [e]) (hlb : s.lb = [])
    (hkind : opKind e.ins.op = .loadReserved) (hdone : 1 ≤ e.progress) (hrob : s.rob = [h]) (howner : e.dest = h.tag)
    (hsys : isSyscall h.ins.op = false) (hdata : h.storeQ ≠ h.tag) :
    broadcastStage s = .next { s with rsAgu := [], rob := [{ h with complete := true, result := e.result }] } := by
  have done : aguDone e = true := by simp [aguDone, isLoadReserved, hkind, hdone]
  have harvest : harvestSet s = [⟨.agu, h.tag, e.result⟩] := by
    simp [harvestSet, hs.rsAlu, hs.rsMd, hagu, hlb, done, howner]
  have removed : removeHarvested ⟨.agu, h.tag, e.result⟩ s = { s with rsAgu := [] } := by
    simp [removeHarvested, hagu, howner, done]
  have marked : markEntry e.result h = { h with complete := true, result := e.result } := by simp [markEntry, hsys]
  have left : MemoryOnly { s with rsAgu := [] } := ⟨hs.running, hs.stage, hs.rsAlu, hs.rsMd⟩
  rw [left.broadcastStage_single harvest removed rfl hrob rfl hdata, marked]

/-- A memory instruction at the head waits for its result, a store-class one for its address and its value
(46_commit.md R372, R376). -/
theorem commitStage_memory_waits (hs : s.stage = .fetch) (hrob : s.rob = h :: younger) (hop : h.ins.op = .ins i)
    (hkind : (kindOf i = .load ∨ kindOf i = .loadReserved) ∨ ∃ w, storeWidth (.ins i) = some w)
    (hc : h.complete = false) (hstall : h.addrReady = false ∨ h.valueReady = false) : commitStage s = .next s := by
  refine commitStage_exec hrob hop ?_ hs
  rcases hkind with hkind | ⟨w, hw⟩
  · rw [exec_commit_other rfl (.inr (.inr (.inr (hkind.imp_right .inl)))),
      commitOther_waits (s := { s with stage := .commit }) hrob hc]
  · rw [exec_commit_store rfl hw]
    simp [commitStore, hrob, hstall]

/-- A complete load or LR.W at the head writes its register and leaves (R376, R377). -/
theorem commitStage_loaded_retires (hs : s.stage = .fetch) (hrob : s.rob = h :: younger) (hop : h.ins.op = .ins i)
    (hkind : kindOf i = .load ∨ kindOf i = .loadReserved) (hc : h.complete = true) :
    commitStage s = .next { s with
      regs := regsWith s h.dest h.result, rst := rstReleased s h.dest h.tag, rob := younger } := by
  refine commitStage_exec hrob hop ?_ hs
  rw [exec_commit_other rfl (.inr (.inr (.inr (hkind.imp_right .inl)))),
    commitOther_retires (s := { s with stage := .commit }) hrob hc]
  rfl

/-- The latency tick of a store-class instruction at the head (R372). -/
theorem commitStage_storeClass_holds (hs : s.stage = .fetch) (hrob : s.rob = h :: younger) (hop : h.ins.op = .ins i)
    (hw : storeWidth (.ins i) = some w) (haddr : h.addrReady = true) (hvalue : h.valueReady = true)
    (hp : h.progress = 0) : commitStage s = .next { s with rob := { h with progress := 1 } :: younger } := by
  refine commitStage_exec hrob hop ?_ hs
  rw [exec_commit_store rfl hw]
  simp [commitStore, hrob, haddr, hvalue, hp]

/-- Then it writes memory and its register, and leaves (R372). -/
theorem commitStage_storeClass_retires (hs : s.stage = .fetch) (hrob : s.rob = h :: younger) (hop : h.ins.op = .ins i)
    (hw : storeWidth (.ins i) = some w) (haddr : h.addrReady = true) (hvalue : h.valueReady = true)
    (hp : h.progress ≠ 0) (hallowed : Allowed s.cfg h.addr (widthBytes w)) :
    commitStage s = .next { s with
      mem := memWrite s.mem h.addr (widthBytes w) h.wb, regs := regsWith s h.dest h.result
      rst := rstReleased s h.dest h.tag, rob := younger } := by
  refine commitStage_exec hrob hop ?_ hs
  rw [exec_commit_store rfl hw]
  simp [commitStore, hrob, haddr, hvalue, hp, accessFault_allowed hallowed, writeBack_eq, retire, regsWith, rstReleased]

/-- A last tick, whose commit leaves nothing in the core. -/
theorem backTicks_last (hcommit : commitStage s = .next u) (hu : MemoryOnly u) (hagu : u.rsAgu = []) (hlb : u.lb = [])
    (hiq : u.iq = []) : backTicks 1 s = .next { u with cycle := u.cycle + 1 } :=
  backTicks_succ_idle 0 hcommit hu.running (hu.broadcastStage_silent (by simp [hagu]) (by simp [hlb])) hu hagu hlb hiq

end

/-! ### The issue -/

/-- What a store's data register holds; 0 for an instruction that is no store (40_cycle_issue_rename.md R144). -/
def dataValue (x : Reg → Word) : Option Reg → Word
  | some b => x b
  | none => 0

/-- A record of the memory unit, with its instruction and its issue form. -/
structure MemRecord where
  record : Decoded
  ins : Instr
  form : IssueForm

/-- The record is the only instruction in the core, about to issue. -/
structure MemRecord.Meets (p : MemRecord) (s : State) : Prop where
  quiet : Quiet s
  iq : s.iq = [p.record]
  op : p.record.op = .ins p.ins
  form : issueTable p.ins = some p.form
  pool : p.form.pool = .agu

section

variable (p : MemRecord) (s : State)

/-- Its reorder-buffer entry as it issues. -/
def MemRecord.entry : RobEntry := newRobEntry p.form p.record s.nextTag ⟨dataValue (readReg s) p.form.data, 0⟩

/-- Its entry of rs_agu as it issues. -/
def MemRecord.station : RsEntry :=
  newRsEntry p.form p.record s.nextTag ⟨operandValue (readReg s) p.record.pc p.form.j, 0⟩
    ⟨operandValue (readReg s) p.record.pc p.form.k, 0⟩

/-- Its reorder-buffer entry with the address. -/
def MemRecord.addressed : RobEntry :=
  { p.entry s with addr := effectiveAddress (p.station s), addrReady := true }

/-- After the first tick: issued. -/
def MemRecord.atIssue : State :=
  { s with
    iq := [], nextTag := s.nextTag + 1, cycle := s.cycle + 1, rob := [p.entry s], rsAgu := [p.station s]
    rst := rstClaimed s p.form.dest s.nextTag }

/-- After `k` ticks, where address generation has taken the entry: the reorder-buffer entry is `h` by then, and the load
buffer is `buffer`. -/
def MemRecord.inFlight (k : Nat) (h : RobEntry) (buffer : List LbEntry) : State :=
  { p.atIssue s with cycle := s.cycle + k, rsAgu := [], rob := [h], lb := buffer }

end

section

variable {p : MemRecord} {s u : State}

theorem MemRecord.Meets.kind (hp : p.Meets s) :
    (kindOf p.ins = .load ∨ kindOf p.ins = .loadReserved) ∨ ∃ w, storeWidth (.ins p.ins) = some w :=
  kindOf_of_aguForm hp.form hp.pool

theorem MemRecord.Meets.only (hp : p.Meets s) (hstatus : u.status = s.status) (hstage : u.stage = s.stage)
    (halu : u.rsAlu = s.rsAlu) (hmd : u.rsMd = s.rsMd) : MemoryOnly u := by
  obtain ⟨hr, hst, _, ha, hm, _⟩ := hp.quiet
  exact ⟨hstatus.trans hr, hstage.trans hst, halu.trans ha, hmd.trans hm⟩

theorem MemRecord.Meets.lb (hp : p.Meets s) : s.lb = [] := by
  obtain ⟨_, _, _, _, _, _, hlb, _⟩ := hp.quiet
  exact hlb

/-- No producer is awaited on the reorder-buffer entry. -/
theorem MemRecord.Meets.data (hp : p.Meets s) : (p.entry s).storeQ ≠ s.nextTag := by
  obtain ⟨_, _, _, _, _, _, _, _, _, htag⟩ := hp.quiet
  exact Nat.ne_of_lt htag

/-- What is no store has no value before its unit has worked on it (40_cycle_issue_rename.md R144). -/
theorem MemRecord.Meets.no_value (hp : p.Meets s) (hkind : kindOf p.ins = .amo ∨ kindOf p.ins = .loadReserved) :
    (p.entry s).valueReady = false := by
  simp [MemRecord.entry, newRobEntry, noData_of_kind hp.form hkind]

theorem MemRecord.Meets.no_syscall (hp : p.Meets s) : isSyscall p.record.op = false := by
  rw [hp.op]
  refine isSyscall_of_kind fun hsys => ?_
  rcases hp.kind with (hkind | hkind) | ⟨w, hw⟩
  · simp [hsys] at hkind
  · simp [hsys] at hkind
  · simp [storeWidth, opKind, hsys] at hw

/-- The first tick: the record issues. -/
theorem MemRecord.Meets.first_tick (hp : p.Meets s) (n : Nat) : backTicks (n + 1) s = backTicks n (p.atIssue s) := by
  obtain ⟨hrun, hstage, hrob, halu, hmd, hagu, hlb, hrst, _⟩ := hp.quiet
  have hm : MemoryOnly s := ⟨hrun, hstage, halu, hmd⟩
  have reads := readOperands_slots (data := p.form.data) (d := ⟨dataValue (readReg s) p.form.data, 0⟩)
    (readOperand_free hrst p.record.pc p.form.j) (readOperand_free hrst p.record.pc p.form.k)
    (fun hnone => by rw [hnone]; rfl) (fun b hsome => by rw [hsome]; exact renameRead_free hrst b)
  have done := issueStage_agu hstage hp.iq hp.op hp.form (isJalr_of_aguForm hp.form hp.pool) hp.pool reads
  rw [backTicks_succ n (commitStage_empty hrob) hrun (hm.broadcastStage_silent (by simp [hagu]) (by simp [hlb])) hrun
    (executeStage_memory hm (aguStep_empty hagu) hrun (lbStep_empty hlb)) hrun done hrun, hrob, hagu]
  rfl

theorem MemRecord.Meets.commit_waits (hp : p.Meets s) : commitStage (p.atIssue s) = .next (p.atIssue s) := by
  have hm : MemoryOnly (p.atIssue s) := hp.only rfl rfl rfl rfl
  exact commitStage_memory_waits hm.stage rfl hp.op hp.kind rfl (.inl rfl)

theorem MemRecord.Meets.broadcast_silent (hp : p.Meets s) : broadcastStage (p.atIssue s) = .next (p.atIssue s) := by
  have hm : MemoryOnly (p.atIssue s) := hp.only rfl rfl rfl rfl
  exact hm.broadcastStage_silent (by simp [MemRecord.atIssue, MemRecord.station, newRsEntry])
    (by simp [MemRecord.atIssue, hp.lb])

/-- The second tick of a record whose address generation leaves nothing in the load buffer. -/
theorem MemRecord.Meets.agu_tick (hp : p.Meets s) (hagu : aguStep (p.atIssue s) = .next u)
    (hstatus : u.status = s.status) (hlb : u.lb = s.lb) (hiq : u.iq = []) (n : Nat) :
    backTicks (n + 1) (p.atIssue s) = backTicks n { u with cycle := u.cycle + 1 } := by
  have hm : MemoryOnly (p.atIssue s) := hp.only rfl rfl rfl rfl
  have hu : u.status = .running := hstatus.trans hm.running
  exact backTicks_succ n hp.commit_waits hm.running hp.broadcast_silent hm.running
    (executeStage_memory hm hagu hu (lbStep_empty (hlb.trans hp.lb))) hu (issueStage_empty hiq) hu

/-- What is left of the core once the record has retired. -/
theorem MemRecord.Meets.empty_core (hp : p.Meets s) (n : Nat) (regs : RegFile) (mem : Memory) :
    ({ p.atIssue s with
      rob := [], rsAgu := [], rst := clearAll, lb := [], cycle := s.cycle + n, regs := regs, mem := mem } : State) =
    { s with iq := [], nextTag := s.nextTag + 1, cycle := s.cycle + n, regs := regs, mem := mem } := by
  obtain ⟨_, _, hrob, _, _, hagu, hlb, hrst, _⟩ := hp.quiet
  simp only [MemRecord.atIssue, hrob, hagu, hlb, hrst]

/-- The register claimed at issue is free once it is released. -/
theorem MemRecord.Meets.released (hp : p.Meets s) (hu : u.rst = (p.atIssue s).rst) :
    rstReleased u p.form.dest s.nextTag = clearAll := by
  obtain ⟨_, _, _, _, _, _, _, hrst, _⟩ := hp.quiet
  exact rstReleased_of_claimed hrst hu rfl

end

/-! ### Retirement -/

section

variable {p : MemRecord} {s u : State} {h : RobEntry} {w : Width} {n : Nat}

/-- The last tick of a load or an LR.W: its complete entry is all there is. -/
theorem MemRecord.Meets.loaded_tick (hp : p.Meets s)
    (hkind : kindOf p.ins = .load ∨ kindOf p.ins = .loadReserved) (hc : h.complete = true) (hins : h.ins = p.record)
    (hdest : h.dest = p.form.dest) (htag : h.tag = s.nextTag) :
    backTicks 1 (p.inFlight s n h []) =
      .next (retiredWith s (n + 1) p.form.dest h.result) := by
  have hm : MemoryOnly (p.inFlight s n h []) := hp.only rfl rfl rfl rfl
  have retires := commitStage_loaded_retires hm.stage (h := h) rfl (hins ▸ hp.op) hkind hc
  have free : rstReleased (p.inFlight s n h []) p.form.dest s.nextTag = clearAll := hp.released rfl
  rw [hdest, htag, free] at retires
  rw [backTicks_last retires ⟨hm.running, hm.stage, hm.rsAlu, hm.rsMd⟩ rfl rfl rfl]
  exact congrArg _ (hp.empty_core (n + 1) (regsWith s p.form.dest h.result) s.mem)

/-- The last tick of a store, SC.W or AMO, its entry held for its latency tick. -/
theorem MemRecord.Meets.storing_tick (hp : p.Meets s) (hw : storeWidth (.ins p.ins) = some w)
    (haddr : h.addrReady = true) (hvalue : h.valueReady = true) (hheld : h.progress ≠ 0)
    (hallowed : Allowed s.cfg h.addr (widthBytes w)) (hins : h.ins = p.record) (hdest : h.dest = p.form.dest)
    (htag : h.tag = s.nextTag) :
    backTicks 1 (p.inFlight s n h []) =
      .next { retiredWith s (n + 1) p.form.dest h.result with mem := memWrite s.mem h.addr (widthBytes w) h.wb } := by
  have hm : MemoryOnly (p.inFlight s n h []) := hp.only rfl rfl rfl rfl
  have retires := commitStage_storeClass_retires hm.stage (h := h) rfl (hins ▸ hp.op) hw haddr hvalue hheld hallowed
  have free : rstReleased (p.inFlight s n h []) p.form.dest s.nextTag = clearAll := hp.released rfl
  rw [hdest, htag, free] at retires
  rw [backTicks_last retires ⟨hm.running, hm.stage, hm.rsAlu, hm.rsMd⟩ rfl rfl rfl]
  exact congrArg _ (hp.empty_core (n + 1) (regsWith s p.form.dest h.result)
    (memWrite s.mem h.addr (widthBytes w) h.wb))

end

/-! ### Stores -/

section

variable {p : MemRecord} {s : State} {w : Width}

/-- The second tick of a store: its entry has the address. -/
theorem MemRecord.Meets.address_tick (hp : p.Meets s) (hkind : kindOf p.ins = .store w) (n : Nat) :
    backTicks (n + 1) (p.atIssue s) = backTicks n (p.inFlight s 2 (p.addressed s) []) := by
  have hm : MemoryOnly (p.atIssue s) := hp.only rfl rfl rfl rfl
  have addressed := aguStep_store (s := p.atIssue s) (older := []) (younger := []) (h := p.entry s) hm.stage rfl
    ⟨rfl, rfl, rfl⟩ rfl hp.op hkind (firstWhere_singleton rfl rfl)
  rw [hp.agu_tick addressed rfl rfl rfl, MemRecord.inFlight, ← hp.lb]
  rfl

/-- The third: the latency tick at commit. -/
theorem MemRecord.Meets.hold_tick (hp : p.Meets s) (hkind : kindOf p.ins = .store w)
    (hvalue : (p.entry s).valueReady = true) (n : Nat) :
    backTicks (n + 1) (p.inFlight s 2 (p.addressed s) []) =
      backTicks n (p.inFlight s 3 { p.addressed s with progress := 1 } []) := by
  have hm : MemoryOnly (p.inFlight s 2 { p.addressed s with progress := 1 } []) := hp.only rfl rfl rfl rfl
  have holds : commitStage (p.inFlight s 2 (p.addressed s) []) =
      .next (p.inFlight s 2 { p.addressed s with progress := 1 } []) :=
    commitStage_storeClass_holds hm.stage rfl hp.op (storeWidth_of_kind hkind) rfl hvalue rfl
  exact backTicks_succ_idle n holds hm.running
    (hm.broadcastStage_silent (by simp [MemRecord.inFlight]) (by simp [MemRecord.inFlight])) hm rfl rfl rfl

end

/-- Settles O52: issue, address generation, the latency tick at commit and the write, a tick each. -/
theorem storeAlone : Obligations.StoreAlone := by
  intro s r i w a b imm ⟨hquiet, hiq⟩ hop hshape hallowed
  obtain ⟨hform, hkind, _⟩ := storeShape_form hshape
  have hp : MemRecord.Meets ⟨r, i, storeForm a b imm⟩ s := ⟨hquiet, hiq, hop, hform, rfl⟩
  rw [hp.first_tick, hp.address_tick hkind, hp.hold_tick hkind rfl]
  exact hp.storing_tick (storeWidth_of_kind hkind) rfl rfl Nat.one_ne_zero hallowed rfl rfl rfl

/-! ### Loads, SC.W and the AMOs: from issue to the last tick in the load buffer -/

/-- The record works in the load buffer on an access of width `w`, for `n + 1` ticks (R8). -/
structure MemRecord.Reads (p : MemRecord) (s : State) (w : Width) (n : Nat) : Prop where
  meets : p.Meets s
  buffered : Buffered p.ins w
  ticks : s.cfg.cacheLat = n + 1

section

variable (p : MemRecord) (s : State)

/-- Its reorder-buffer entry while it is in the load buffer: SC.W and the AMOs have their address there (R261, R263). -/
def MemRecord.waiting : RobEntry := if kindOf p.ins = .amo then p.addressed s else p.entry s

/-- Its load-buffer entry, cleared to read memory, after `k` ticks there. -/
def MemRecord.bufferEntry (k : Nat) : LbEntry :=
  { newLbEntry (p.station s) (p.station s).vk with cleared := true, progress := k }

/-- After the tick of its issue and `k` ticks in the load buffer, none of them the last. -/
def MemRecord.reading (k : Nat) : State := p.inFlight s (k + 1) (p.waiting s) [p.bufferEntry s k]

end

namespace MemRecord.Reads

variable {p : MemRecord} {s u : State} {w : Width} {h : RobEntry} {n k : Nat}

theorem waiting_load (hkind : kindOf p.ins = .load) : p.waiting s = p.entry s := if_neg (by simp [hkind])

theorem waiting_amo (hkind : kindOf p.ins = .amo) : p.waiting s = p.addressed s := if_pos hkind

theorem waiting_tag (p : MemRecord) (s : State) : (p.waiting s).tag = s.nextTag := by
  unfold waiting
  split <;> rfl

/-- While the record is in the load buffer, its reorder-buffer entry has its own record, and neither result nor value. -/
theorem waiting_fresh (hp : p.Reads s w n) :
    (p.waiting s).ins = p.record ∧ (p.waiting s).complete = false ∧
      ((p.waiting s).addrReady = false ∨ (p.waiting s).valueReady = false) := by
  rcases hp.buffered.kind with hkind | hkind
  · rw [waiting_load hkind]
    exact ⟨rfl, rfl, .inl rfl⟩
  · rw [waiting_amo hkind]
    exact ⟨rfl, rfl, .inr (hp.meets.no_value (.inl hkind))⟩

/-- Address generation moves the record to the load buffer. -/
theorem generates (hp : p.Reads s w n) : aguStep (p.atIssue s) =
    .next (p.inFlight s 1 (p.waiting s) [newLbEntry (p.station s) (p.station s).vk]) := by
  have hm : MemoryOnly (p.atIssue s) := hp.meets.only rfl rfl rfl rfl
  have hempty : (p.atIssue s).lb = [] := hp.meets.lb
  rcases hp.buffered.kind with hkind | hkind
  · have novalue : (p.station s).vk = 0 := by
      simp [station, newRsEntry, loadForm_of_kind hp.meets.form hkind, operandValue]
    rw [aguStep_load hm.stage (e := p.station s) rfl ⟨rfl, rfl, rfl⟩ rfl hp.meets.op hkind hempty, waiting_load hkind,
      novalue]
    rfl
  · refine aguStep_exec (e := p.station s) rfl hp.meets.op ?_ hm.stage
    rw [exec_execute_amo rfl hkind, waiting_amo hkind, aguAmo_owner (before := []) (after := []) (older := [])
      (younger := []) (h := p.entry s) (firstWhere_singleton rfl ⟨⟨rfl, rfl, rfl⟩, rfl⟩)
      (firstWhere_singleton rfl rfl)]
    simp only [atIssue, hp.meets.lb]
    rfl

/-- The scan finds no older entry, so the first tick in the load buffer is that of the cleared entry (R273, R275). -/
theorem scanned (hp : p.Reads s w n) :
    lbStep (p.inFlight s 1 (p.waiting s) [newLbEntry (p.station s) (p.station s).vk]) = lbStep (p.reading s 0) := by
  refine lbStep_congr rfl (m := p.bufferEntry s 0) rfl rfl hp.meets.op hp.meets.op ?_
  exact scanFindsNoStore p.ins
    { p.inFlight s 1 (p.waiting s) [newLbEntry (p.station s) (p.station s).vk] with stage := .load s.nextTag }
    s.nextTag [] [] _ [] [] (p.waiting s) hp.buffered.kind rfl (firstWhere_singleton rfl rfl)
    (hp.ticks ▸ Nat.succ_pos n) rfl (firstWhere_singleton rfl (waiting_tag p s)) (by simp)

theorem commit_waits (hp : p.Reads s w n) (hstage : u.stage = s.stage) (hrob : u.rob = [p.waiting s]) :
    commitStage u = .next u := by
  obtain ⟨hins, hc, hstall⟩ := hp.waiting_fresh
  have hm : MemoryOnly (p.atIssue s) := hp.meets.only rfl rfl rfl rfl
  exact commitStage_memory_waits (hstage.trans hm.stage) hrob (hins ▸ hp.meets.op) hp.meets.kind hc hstall

theorem broadcast_silent (hp : p.Reads s w n) (hk : k ≤ n) :
    broadcastStage (p.reading s k) = .next (p.reading s k) := by
  have hm : MemoryOnly (p.reading s k) := hp.meets.only rfl rfl rfl rfl
  refine hm.broadcastStage_silent (by simp [reading, inFlight]) fun l hl => ?_
  rw [List.mem_singleton.mp hl]
  exact hp.ticks ▸ Nat.lt_succ_of_le hk

/-- The tick behind the issue is that of an entry which has been in the load buffer already. -/
theorem issued_reads (hp : p.Reads s w n) (m : Nat) :
    backTicks (m + 1) (p.atIssue s) = backTicks (m + 1) (p.reading s 0) := by
  have hissue : MemoryOnly (p.atIssue s) := hp.meets.only rfl rfl rfl rfl
  have hm : MemoryOnly (p.reading s 0) := hp.meets.only rfl rfl rfl rfl
  have executes : executeStage (p.atIssue s) = executeStage (p.reading s 0) := by
    rw [executeStage_lbStep hissue hp.generates hm.running, hp.scanned,
      executeStage_lbStep hm (aguStep_empty rfl) hm.running]
  have before : beforeFetch (p.atIssue s) = beforeFetch (p.reading s 0) := by
    rw [beforeFetch, beforeFetch, hp.meets.commit_waits, hp.commit_waits (u := p.reading s 0) rfl rfl,
      andThen_running hissue.running, andThen_running hm.running, hp.meets.broadcast_silent,
      hp.broadcast_silent (Nat.zero_le n), andThen_running hissue.running, andThen_running hm.running, executes]
  rw [backTicks, backTicks, before]

/-- A tick in the load buffer, by what the instruction leaves there. -/
theorem tick (hp : p.Reads s w n) (hk : k ≤ n) (hexec : exec p.ins { p.reading s k with stage := .load s.nextTag } =
      .next { u with stage := .load s.nextTag }) (hstage : u.stage = s.stage) (hstatus : u.status = s.status)
    (hiq : u.iq = []) (m : Nat) : backTicks (m + 1) (p.reading s k) = backTicks m { u with cycle := u.cycle + 1 } := by
  have hm : MemoryOnly (p.reading s k) := hp.meets.only rfl rfl rfl rfl
  have hu : u.status = .running := hstatus.trans hm.running
  have work : lbStep (p.reading s k) = .next u :=
    lbStep_exec (l := p.bufferEntry s k) rfl hp.meets.op hexec (hstage.trans hm.stage)
  exact backTicks_succ m (hp.commit_waits rfl rfl) hm.running (hp.broadcast_silent hk) hm.running
    (executeStage_memory hm (aguStep_empty rfl) hm.running work) hu (issueStage_empty hiq) hu

theorem counting_tick (hp : p.Reads s w n) (hk : k < n) (m : Nat) :
    backTicks (m + 1) (p.reading s k) = backTicks m (p.reading s (k + 1)) := by
  have counts := exec_cleared_counts (s := { p.reading s k with stage := .load s.nextTag }) (l := p.bufferEntry s k)
    hp.buffered rfl (firstWhere_singleton rfl rfl) rfl (hp.ticks ▸ Nat.succ_lt_succ hk)
  exact hp.tick (u := { p.reading s k with lb := [p.bufferEntry s (k + 1)] }) (Nat.le_of_lt hk) counts rfl rfl rfl m

theorem counting_ticks (hp : p.Reads s w n) (hk : k ≤ n) (m : Nat) :
    backTicks (k + m) (p.reading s 0) = backTicks m (p.reading s k) := by
  induction k generalizing m with
  | zero => rw [Nat.zero_add]
  | succ k ih => rw [show k + 1 + m = k + (m + 1) by omega, ih (by omega), hp.counting_tick hk]

/-- The tick of the issue and those in the load buffer but the last. -/
theorem reaches_last (hp : p.Reads s w n) (m : Nat) :
    backTicks (n + 1 + (m + 1)) s = backTicks (m + 1) (p.reading s n) := by
  rw [show n + 1 + (m + 1) = n + m + 1 + 1 by omega, hp.meets.first_tick, hp.issued_reads,
    show n + m + 1 = n + (m + 1) by omega, hp.counting_ticks (Nat.le_refl n)]

/-- The last of them, which leaves the result `v` and the reorder-buffer entry `h`. -/
theorem last_tick (hp : p.Reads s w n) {v : Word}
    (hexec : exec p.ins { p.reading s n with stage := .load s.nextTag } =
      .next { p.inFlight s (n + 1) h [{ p.bufferEntry s (n + 1) with result := v }] with stage := .load s.nextTag })
    (m : Nat) : backTicks (m + 1) (p.reading s n) =
      backTicks m (p.inFlight s (n + 2) h [{ p.bufferEntry s (n + 1) with result := v }]) :=
  hp.tick (u := p.inFlight s (n + 1) h [{ p.bufferEntry s (n + 1) with result := v }]) (Nat.le_refl n) hexec rfl rfl
    rfl m

/-- The tick in which the load buffer's result `v` is harvested: what commit makes of the entry in it is `h`. -/
theorem harvest_tick (hp : p.Reads s w n) {g : RobEntry} {v : Word}
    (hcommit : commitStage (p.inFlight s k g [{ p.bufferEntry s (n + 1) with result := v }]) =
      .next (p.inFlight s k h [{ p.bufferEntry s (n + 1) with result := v }]))
    (hins : h.ins = p.record) (htag : h.tag = s.nextTag) (hdata : h.storeQ = (p.entry s).storeQ) (m : Nat) :
    backTicks (m + 1) (p.inFlight s k g [{ p.bufferEntry s (n + 1) with result := v }]) =
      backTicks m (p.inFlight s (k + 1) { h with complete := true, result := v } []) := by
  have hm : MemoryOnly (p.inFlight s k h [{ p.bufferEntry s (n + 1) with result := v }]) :=
    hp.meets.only rfl rfl rfl rfl
  have harvested := hm.broadcastStage_load rfl rfl (Nat.le_of_eq hp.ticks) (h := h) rfl htag.symm
    (hins ▸ hp.meets.no_syscall) (by rw [hdata, htag]; exact hp.meets.data)
  exact backTicks_succ_idle m hcommit hm.running harvested ⟨hm.running, hm.stage, hm.rsAlu, hm.rsMd⟩ rfl rfl rfl

/-! ### The retirement of a load -/

/-- A load's last tick in the load buffer, the harvest and the commit. -/
theorem load_retires (hp : p.Reads s w n) {sign : Bool} {rd a : Reg} {imm : Word}
    (hshape : loadShape p.ins = some (w, sign, rd, a, imm))
    (hallowed : Allowed s.cfg (effectiveAddress (p.station s)) (widthBytes w)) :
    backTicks (n + 4) s = .next (retiredWith s (n + 4) p.form.dest
      (loadedValue w sign (memRead s.mem (effectiveAddress (p.station s)) (widthBytes w)))) := by
  have hkind := (loadShape_form hshape).2.1
  have hentry : p.waiting s = p.entry s := waiting_load hkind
  have finishes := exec_load_finishes (s := { p.reading s n with stage := .load s.nextTag }) (l := p.bufferEntry s n)
    hshape rfl (firstWhere_singleton rfl rfl) rfl hp.ticks.symm (.inr ⟨rfl, hallowed, rfl⟩)
  rw [show n + 4 = n + 1 + (2 + 1) by omega, hp.reaches_last, hp.last_tick finishes,
    hp.harvest_tick (hp.commit_waits rfl rfl) (hentry ▸ rfl) (waiting_tag p s) (hentry ▸ rfl), hentry]
  exact hp.meets.loaded_tick (.inl hkind) rfl rfl rfl rfl

/-! ### The retirement of SC.W and the AMOs -/

/-- The reorder-buffer entry of SC.W or an AMO that has its result `v` and its word `new`. -/
def combined (p : MemRecord) (s : State) (v new : Word) : RobEntry :=
  { p.addressed s with result := v, wb := new, valueReady := true }

/-- The harvest of SC.W or an AMO, which is its latency tick at commit, and the write. -/
theorem combined_retires (hp : p.Reads s .word n) (hkind : kindOf p.ins = .amo) (v new : Word)
    (hallowed : Allowed s.cfg (effectiveAddress (p.station s)) 4) :
    backTicks 2 (p.inFlight s (n + 2) (combined p s v new) [{ p.bufferEntry s (n + 1) with result := v }]) =
      .next { retiredWith s (n + 4) p.form.dest v with mem := memWrite s.mem (effectiveAddress (p.station s)) 4 new } := by
  have hm : MemoryOnly (p.inFlight s (n + 2) (combined p s v new) [{ p.bufferEntry s (n + 1) with result := v }]) :=
    hp.meets.only rfl rfl rfl rfl
  have holds : commitStage (p.inFlight s (n + 2) (combined p s v new) [{ p.bufferEntry s (n + 1) with result := v }]) =
      .next (p.inFlight s (n + 2) { combined p s v new with progress := 1 }
        [{ p.bufferEntry s (n + 1) with result := v }]) :=
    commitStage_storeClass_holds hm.stage rfl hp.meets.op (storeWidth_amo hkind) rfl rfl rfl
  rw [hp.harvest_tick holds rfl rfl rfl]
  exact hp.meets.storing_tick (storeWidth_amo hkind) rfl rfl Nat.one_ne_zero hallowed rfl rfl rfl

/-- The last tick of SC.W or an AMO in the load buffer, and the two at commit. -/
theorem amo_retires (hp : p.Reads s .word n) {new : Word}
    (hnew : amoTable p.ins (memRead s.mem (effectiveAddress (p.station s)) 4) (p.station s).vk = some new)
    (hallowed : Allowed s.cfg (effectiveAddress (p.station s)) 4) :
    backTicks (n + 4) s = .next { retiredWith s (n + 4) p.form.dest
        (amoResult s.cfg p.ins (memRead s.mem (effectiveAddress (p.station s)) 4)) with
      mem := memWrite s.mem (effectiveAddress (p.station s)) 4 new } := by
  have hkind := kindOf_of_amoTable hnew
  have finishes := exec_amo_finishes (s := { p.reading s n with stage := .load s.nextTag }) (l := p.bufferEntry s n)
    (older := []) (younger := []) (h := p.addressed s) hnew rfl (firstWhere_singleton rfl rfl) rfl
    (firstWhere_singleton (congrArg (fun g => [g]) (waiting_amo hkind)) rfl) hp.ticks.symm (.inr ⟨rfl, hallowed, rfl⟩)
  rw [show n + 4 = n + 1 + (2 + 1) by omega, hp.reaches_last]
  exact (hp.last_tick finishes 2).trans (hp.combined_retires hkind _ new hallowed)

end MemRecord.Reads

/-- Settles O51: issue, CACHE_LAT ticks in the load buffer, harvest and commit. -/
theorem loadAlone : Obligations.LoadAlone := by
  intro s r i w sign rd a imm ⟨hquiet, hiq⟩ ⟨_, _, hlat⟩ hop hshape hallowed
  obtain ⟨hform, _, _⟩ := loadShape_form hshape
  obtain ⟨n, hn⟩ : ∃ n, s.cfg.cacheLat = n + 1 := Nat.exists_eq_add_of_le' hlat
  have hp : MemRecord.Reads ⟨r, i, loadForm a imm rd⟩ s w n :=
    ⟨⟨hquiet, hiq, hop, hform, rfl⟩, .inl ⟨sign, rd, a, imm, hshape⟩, hn⟩
  rw [hn]
  exact hp.load_retires hshape hallowed

/-! ### LR.W -/

section

variable {p : MemRecord} {s : State}

/-- After `k` ticks, where address generation has left the result 0 in an LR.W's entry of rs_agu (R264). -/
def MemRecord.reserved (p : MemRecord) (s : State) (k : Nat) : State :=
  { p.inFlight s k (p.addressed s) [] with rsAgu := [{ p.station s with result := 0, progress := 1 }] }

/-- The second tick of an LR.W: address generation, which gives it its result. -/
theorem MemRecord.Meets.reserve_tick (hp : p.Meets s) (hkind : kindOf p.ins = .loadReserved) (n : Nat) :
    backTicks (n + 1) (p.atIssue s) = backTicks n (p.reserved s 2) := by
  have hm : MemoryOnly (p.atIssue s) := hp.only rfl rfl rfl rfl
  have generated : aguStep (p.atIssue s) = .next (p.reserved s 1) := by
    refine aguStep_exec (e := p.station s) rfl hp.op ?_ hm.stage
    rw [exec_execute_loadReserved rfl hkind, aguLoadReserved_owner (before := []) (after := []) (older := [])
      (younger := []) (h := p.entry s) (firstWhere_singleton rfl ⟨⟨rfl, rfl, rfl⟩, rfl⟩)
      (firstWhere_singleton rfl rfl)]
    simp only [atIssue, reserved, inFlight, hp.lb]
    rfl
  exact hp.agu_tick generated rfl hp.lb.symm rfl n

/-- The third: its result is harvested, while commit waits. -/
theorem MemRecord.Meets.reserved_tick (hp : p.Meets s) (hkind : kindOf p.ins = .loadReserved) (n : Nat) :
    backTicks (n + 1) (p.reserved s 2) =
      backTicks n (p.inFlight s 3 { p.addressed s with complete := true, result := 0 } []) := by
  have hm : MemoryOnly (p.reserved s 2) := hp.only rfl rfl rfl rfl
  have waits := commitStage_memory_waits hm.stage (h := p.addressed s) rfl hp.op hp.kind rfl
    (.inr (hp.no_value (.inr hkind)))
  have kind : opKind p.record.op = .loadReserved := (congrArg opKind hp.op).trans hkind
  have harvested := hm.broadcastStage_reserved rfl rfl kind (Nat.le_refl 1) (h := p.addressed s) rfl rfl
    hp.no_syscall hp.data
  exact backTicks_succ_idle n waits hm.running harvested ⟨hm.running, hm.stage, hm.rsAlu, hm.rsMd⟩ rfl rfl rfl

/-- An LR.W is issued, is done in address generation, harvested, and commits, a tick each. -/
theorem MemRecord.Meets.reserved_retires (hp : p.Meets s) (hkind : kindOf p.ins = .loadReserved) :
    backTicks 4 s = .next (retiredWith s 4 p.form.dest 0) := by
  rw [hp.first_tick, hp.reserve_tick hkind, hp.reserved_tick hkind]
  exact hp.loaded_tick (.inr hkind) rfl rfl rfl rfl

end

/-- Settles O53: issue, CACHE_LAT ticks in the load buffer, harvest, and the write at commit; LR.W has its result from
address generation. -/
theorem atomicAlone : Obligations.AtomicAlone := by
  intro s r i rd a b new ⟨hquiet, hiq⟩ ⟨_, _, hlat⟩ hop
  refine ⟨fun hform hnew hallowed => ?amo, fun hkind hform => ?loadReserved⟩
  case amo =>
    obtain ⟨n, hn⟩ : ∃ n, s.cfg.cacheLat = n + 1 := Nat.exists_eq_add_of_le' hlat
    have hp : MemRecord.Reads ⟨r, i, amoForm a b rd⟩ s .word n :=
      ⟨⟨hquiet, hiq, hop, hform, rfl⟩, .inr ⟨kindOf_of_amoTable hnew, rfl⟩, hn⟩
    have haddr : effectiveAddress (MemRecord.station ⟨r, i, amoForm a b rd⟩ s) = readReg s a := BitVec.add_zero _
    have retires := hp.amo_retires (new := new) (by rw [haddr]; exact hnew) (by rw [haddr]; exact hallowed)
    rw [haddr] at retires
    rw [hn]
    exact retires
  case loadReserved =>
    exact MemRecord.Meets.reserved_retires (p := ⟨r, i, loadForm a 0 rd⟩) ⟨hquiet, hiq, hop, hform, rfl⟩ hkind

end Sys2Proof.Machine
end

section
/-! PROOFS. The fetch stage and the branch predictor (44_branch_fetch.md R320 to R335): the counters of the two-bit
policy, the faults of a fetch, what each instruction does there, and the JALR stall. -/

namespace Sys2Proof.Machine

/-! ### The branch predictor -/

theorem counterAt_setCounter_same (init c : Fin 4) (p : PredState) (i : Nat) :
    counterAt init (setCounter p i c) i = c := by
  induction p with
  | nil => simp [setCounter, counterAt]
  | cons entry rest ih =>
    unfold setCounter
    split
    · rename_i h
      simp [counterAt, h]
    · rename_i h
      split
      · simp [counterAt]
      · simp [counterAt, h, ih]

theorem counterAt_setCounter_other (init c : Fin 4) (p : PredState) {i k : Nat} (hk : k ≠ i) :
    counterAt init (setCounter p i c) k = counterAt init p k := by
  induction p with
  | nil => simp [setCounter, counterAt, hk]
  | cons entry rest ih =>
    unfold setCounter
    split
    · rename_i h
      simp [counterAt, ← h, hk]
    · split
      · simp [counterAt, hk]
      · simp [counterAt, ih]

/-- R332: the saturating step of a counter, by number. -/
theorem bump_val (c : Fin 4) (taken : Bool) :
    (bump c taken).val = if taken then min 3 (c.val + 1) else c.val - 1 := by
  revert c taken
  decide

section

variable {s : State}

theorem predict_static {b : Bool} (h : s.cfg.predictor = .static b) (pc : Word) : predict s pc = b := by
  rw [predict, h]

theorem updatedPred_static {b : Bool} (h : s.cfg.predictor = .static b) (pc : Word) (taken : Bool) :
    updatedPred s pc taken = s.pred := by
  rw [updatedPred, h]

theorem predict_twoBit {init : Fin 4} (h : s.cfg.predictor = .twoBit init) (pc : Word) :
    predict s pc = decide (2 ≤ (counterAt init s.pred (Config.branchIndex pc)).val) := by
  rw [predict, h]

theorem updatedPred_twoBit {init : Fin 4} (h : s.cfg.predictor = .twoBit init) (pc : Word) (taken : Bool) :
    updatedPred s pc taken = setCounter s.pred (Config.branchIndex pc)
      (bump (counterAt init s.pred (Config.branchIndex pc)) taken) := by
  rw [updatedPred, h]

end

/-- Settles O27: an update writes the bumped counter at the pc's own index, and a read elsewhere passes it by. -/
theorem predictorCounts : Obligations.PredictorCounts := by
  intro s pc taken
  refine ⟨fun b h => ⟨predict_static h pc, updatedPred_static h pc taken⟩, fun init h => ⟨?_, ?_, fun k hk => ?_⟩⟩
  · rw [predict_twoBit h, decide_eq_true_iff]
  · rw [updatedPred_twoBit h, counterAt_setCounter_same, bump_val]
  · rw [updatedPred_twoBit h, counterAt_setCounter_other _ _ _ hk]

/-! ### The faults of a fetch -/

section

variable {s p : State}

theorem fetchHere_fault {f : Fault} (h : accessFault s.cfg s.pc 4 = some f) : fetchHere s = .next (raise f s) := by
  rw [fetchHere, h]

/-- R322, R335: a readable word that matches no row, or a refused one, raises DecodeFault. -/
theorem fetchHere_refused (hs : s.stage = .fetch) (ha : Allowed s.cfg s.pc 4)
    (hrefused : ∀ i, decodeWord (memRead s.mem s.pc 4) = .ok i → kindOf i = .refused) :
    fetchHere s = .next (fetchRefused s) := by
  cases hd : decodeWord (memRead s.mem s.pc 4) with
  | ok i =>
    rw [fetchHere_ins ha hd]
    exact execAt_exec (exec_refused (hrefused i hd)) hs
  | error reject =>
    rw [fetchHere, accessFault_allowed ha]
    dsimp only
    rw [fetchedWord, hd]
    rfl

/-- A fetch stage that ends the run ends the step: the cycle is not counted (40_cycle_issue_rename.md R133). -/
theorem step_stopped_at_fetch {u : State} (hs : s.status = .running) (hb : beforeFetch s = .next p)
    (hp : p.status = .running) (hf : fetchStage p = .next u) (hu : u.status ≠ .running) : step s = .next u := by
  rw [step_of_beforeFetch hs hb hp, hf, andThen_stopped hu]

end

/-- Settles O21: the access checks come first, in their order, and the decoder is asked only after them. -/
theorem fetchFaultsInOrder : Obligations.FetchFaultsInOrder := by
  intro s p hs hb hp hw hst
  have stops (f : Fault) (h : fetchHere p = .next (raise f p)) : step s = .next (raise f p) :=
    step_stopped_at_fetch hs hb hp ((fetchStage_here hw).trans h) (by simp)
  obtain ⟨misaligned, unmapped, _⟩ := accessChecks p.cfg p.pc 4
  exact ⟨fun h => stops _ (fetchHere_fault (misaligned h)), fun h g => stops _ (fetchHere_fault (unmapped h g)),
    fun ha hrefused => stops _ (fetchHere_refused hst ha hrefused)⟩

/-! ### What an instruction does at fetch -/

section

variable {s : State}

theorem exec_fetch_jal (hs : s.stage = .fetch) (rd : Reg) (imm : Word) :
    exec (.jal rd imm) s = .next (fetchJal (.jal rd imm) imm s) :=
  life_fetch hs _ _ _ _ _

theorem exec_fetch_jalr (hs : s.stage = .fetch) (rd rs1 : Reg) (imm : Word) :
    exec (.jalr rd rs1 imm) s = .next (fetchJalr (.jalr rd rs1 imm) s) :=
  life_fetch hs _ _ _ _ _

/-- 41_alu.md R232: at issue NOP reads nothing and claims no register. -/
theorem execOp_nop_issue {r : Decoded} {waiting : List Decoded} (hs : s.stage = .issue) (hiq : s.iq = r :: waiting) :
    execOp .nop s = .next (issued (aluForm (.const 0) (.const 0) 0) r waiting ⟨0, 0⟩ ⟨0, 0⟩ ⟨0, 0⟩ s) := by
  rw [execOp, nopLife, life_issue hs, issueAs_issued hiq rfl]

end

/-- Settles O22: one enqueue, with the next pc of the instruction's kind. -/
theorem fetchSetsPc : Obligations.FetchSetsPc := fun _ hs =>
  ⟨fun _ hb hj hr hn hf => exec_fetch_next hs hb hj hr hn hf, exec_fetch_jal hs, exec_fetch_jalr hs⟩

/-- Settles O23: fetch follows the predictor, whose answer under always-taken is true. -/
theorem fetchPredictsBranches : Obligations.FetchPredictsBranches := by
  intro i s taken imm hs hshape
  have hexec := exec_fetch_branch hs hshape
  refine ⟨hexec, fun hstatic => ?_⟩
  rw [hexec, fetchBranch, predict_static hstatic]
  rfl

/-- Settles O26: the suppressed row leaves a NOP record at fetch, and NOP's issue has no source and no destination. -/
theorem suppressedBecomesNop : Obligations.SuppressedBecomesNop := fun _ _ hk =>
  ⟨fun hs => exec_fetch_suppressed hs hk, fun _ _ hs hiq => execOp_nop_issue hs hiq⟩

/-! ### The JALR stall -/

/-- R328: the mask of the target clears bit 0 and keeps bits 31..1. -/
theorem jalrTarget_eq (j k : Word) : jalrTarget j k = (j + k).extractLsb' 1 31 ++ 0#1 := by
  have mask : 0xfffffffe#32 = BitVec.allOnes 31 ++ 0#1 := rfl
  rw [jalrTarget, mask]
  ext n hn
  rw [BitVec.getElem_and, BitVec.getElem_append, BitVec.getElem_append]
  split
  · simp
  · have hbit : 1 + (n - 1) = n := by omega
    rw [BitVec.getElem_allOnes, Bool.and_true, BitVec.getElem_extractLsb', hbit, BitVec.getLsbD_eq_getElem]

section

variable {s : State} {t : Tag} {before after : List RsEntry} {e : RsEntry}

theorem fetchStage_unissued (hw : s.jalrWait = .unissued) : fetchStage s = .next s := by
  rw [fetchStage, hw]

theorem fetchStage_stale (hw : s.jalrWait = .waiting t) (hnone : ∀ x ∈ s.rsAlu, x.dest ≠ t) :
    fetchStage s = .next (raise (.staleTag t) s) := by
  rw [fetchStage, hw]
  dsimp only
  rw [find_none fun x hx => by simpa using hnone x hx]

/-- The awaited JALR is looked up in rs_alu by its tag. -/
theorem find_awaited (hfirst : FirstWhere (fun x => x.dest = t) s.rsAlu before e after) :
    s.rsAlu.find? (fun x => x.dest == t) = some e := by
  obtain ⟨hsplit, hdest, hbefore⟩ := hfirst
  exact find_split ⟨hsplit, by simpa using hdest, fun y hy => by simpa using hbefore y hy⟩

theorem fetchStage_pending (hw : s.jalrWait = .waiting t)
    (hfirst : FirstWhere (fun x => x.dest = t) s.rsAlu before e after) (hq : e.qj ≠ 0) :
    fetchStage s = .next s := by
  rw [fetchStage, hw]
  dsimp only
  rw [find_awaited hfirst]
  dsimp only
  rw [resumeTarget, if_neg hq]

theorem fetchStage_resumes (hw : s.jalrWait = .waiting t)
    (hfirst : FirstWhere (fun x => x.dest = t) s.rsAlu before e after) (hq : e.qj = 0) :
    fetchStage s = fetchHere { s with pc := jalrTarget e.vj e.vk, jalrWait := .none } := by
  rw [fetchStage, hw]
  dsimp only
  rw [find_awaited hfirst]
  dsimp only
  rw [resumeTarget, if_pos hq]

end

/-- Settles O24: the stall by what it waits for; once the base is known, fetch works at the target in the same tick. -/
theorem jalrResumes : Obligations.JalrResumes := by
  intro s t before after e
  refine ⟨fetchStage_unissued, fun hw hfirst => ⟨fetchStage_pending hw hfirst, fun hq => ?_⟩, fetchStage_stale⟩
  rw [fetchStage_resumes hw hfirst hq, jalrTarget_eq, fetchStage_here rfl]

end Sys2Proof.Machine
end

section
/-! PROOFS. The broadcast stage in full (45_cdb.md R350 to R358, R362): what the harvest and the messages leave of the pools,
the load buffer and the reorder buffer. -/

namespace Sys2Proof.Machine

/-! ### The tags of the harvest -/

/-- The tags of the entries of the three pools and the load buffer. -/
def unitTags (s : State) : List Tag := (units s).map (·.1)

theorem oneUnitPerTag_iff (s : State) : OneUnitPerTag s ↔ (unitTags s).Nodup := by
  rw [unitTags, units_tags]

/-- The tags of the harvest set H (R350). -/
def harvestTags (s : State) : List Tag := (harvestSet s).map (·.tag)

/-- What is harvested stands in a pool or in the load buffer. -/
theorem harvestTags_sublist (s : State) : (harvestTags s).Sublist (unitTags s) := by
  simp only [harvestTags, harvestSet, unitTags, units_tags, List.map_append, List.map_map]
  have part {α : Type} (p : α → Bool) (f : α → Tag) (l : List α) : ((l.filter p).map f).Sublist (l.map f) :=
    List.filter_sublist.map f
  exact (((part _ _ _).append (part _ _ _)).append (part _ _ _)).append (part _ _ _)

/-- One turn of the harvest loop (R362) where the owner is present. -/
theorem harvestAll_cons {x : Harvested} {s : State} {h : RobEntry} (xs : List Harvested) (ms : List CdbMsg)
    (e : robAt s x.tag = some h) :
    harvestAll (x :: xs) s ms = harvestAll xs (harvestOne x s) (ms ++ messageOf h x) := by
  rw [harvestAll]
  simp only [robAt_congr (removeHarvested_rob x s), e]
  rfl

/-! ### What the harvest leaves in the pools -/

/-- `s` without its harvestable entries (R351). -/
def emptied (s : State) : State := { s with
  rsAlu := s.rsAlu.filter fun e => !aluDone e
  rsMd := s.rsMd.filter fun e => !mdDone s.cfg e
  rsAgu := s.rsAgu.filter fun e => !aguDone e
  lb := s.lb.filter fun l => !lbDone s.cfg l }

/-- Taking a harvestable entry out leaves those that are not harvestable. -/
theorem filter_eraseP_done {α : Type} (p q : α → Bool) (l : List α) :
    (l.eraseP fun y => q y && p y).filter (fun y => !p y) = l.filter fun y => !p y := by
  induction l with
  | nil => rfl
  | cons y rest ih =>
    cases hq : q y <;> cases hp : p y <;> simp [hq, hp, ih]

theorem emptied_removeHarvested (x : Harvested) (s : State) : emptied (removeHarvested x s) = emptied s := by
  unfold removeHarvested
  split <;> simp only [emptied, filter_eraseP_done]

/-- Where nothing is harvestable, nothing leaves. -/
theorem emptied_of_harvestSet_nil {s : State} (h : harvestSet s = []) : emptied s = s := by
  have kept {α : Type} {p : α → Bool} {l : List α} (hl : l.filter p = []) : (l.filter fun y => !p y) = l :=
    List.filter_eq_self.2 fun y hy => by simpa using List.filter_eq_nil_iff.1 hl y hy
  simp only [harvestSet, List.append_eq_nil_iff, List.map_eq_nil_iff] at h
  obtain ⟨⟨⟨halu, hmd⟩, hagu⟩, hlb⟩ := h
  rw [emptied, kept halu, kept hmd, kept hagu, kept hlb]

/-! ### What the harvest leaves in the reorder buffer -/

/-- Where keys are distinct, updateFirst by key is a map. -/
theorem updateFirst_eq_map {α : Type} {key : α → Tag} {l : List α} (h : (l.map key).Nodup) (t : Tag) (f : α → α) :
    updateFirst (fun y => key y == t) f l = l.map fun y => if key y = t then f y else y := by
  induction l with
  | nil => rfl
  | cons y rest ih =>
    obtain ⟨hy, hrest⟩ := List.nodup_cons.1 h
    by_cases ht : key y = t
    · have others : (rest.map fun z => if key z = t then f z else z) = rest.map id :=
        List.map_congr_left fun z hz => if_neg fun hzt => hy (List.mem_map.2 ⟨z, hz, hzt.trans ht.symm⟩)
      simp [updateFirst, ht, others]
    · simp [updateFirst, ht, ih hrest]

/-- A first harvested element marks its owner, and no later one has its tag. -/
theorem robHarvested_cons {x : Harvested} {xs : List Harvested} (hx : ∀ y ∈ xs, y.tag ≠ x.tag) (h : RobEntry) :
    robHarvested (x :: xs) h = robHarvested xs (if h.tag = x.tag then markEntry x.value h else h) := by
  by_cases ht : h.tag = x.tag
  · have others : xs.find? (fun y => y.tag == h.tag) = none := find_none fun y hy => by simpa [ht] using hx y hy
    have found : robHarvested (x :: xs) h = markEntry x.value h := by
      rw [robHarvested, List.find?_cons_of_pos (by simp [ht])]
      rfl
    rw [found, if_pos ht, robHarvested, markEntry_tag, others]
  · have other : (x.tag == h.tag) = false := by simpa using Ne.symm ht
    rw [if_neg ht, robHarvested, robHarvested, List.find?_cons_of_neg (by simp [other])]

/-- What the harvest of one element makes of the reorder buffer. -/
theorem harvestOne_rob {x : Harvested} {s : State} (h : (robTags s).Nodup) :
    (harvestOne x s).rob = s.rob.map fun h => if h.tag = x.tag then markEntry x.value h else h := by
  rw [harvestOne, updateRob_rob, removeHarvested_rob]
  exact updateFirst_eq_map h _ _

/-! ### The messages of the harvest -/

/-- The message of one harvested element, if it has one (R353). -/
def announcement (s : State) (x : Harvested) : Option CdbMsg := (robAt s x.tag).bind fun h => (messageOf h x).head?

theorem messages_eq (s : State) : messages s = (harvestSet s).filterMap (announcement s) := by
  unfold messages
  congr 1
  funext x
  unfold announcement messageOf
  cases robAt s x.tag with
  | none => rfl
  | some h =>
    dsimp only [Option.bind_some]
    split <;> rfl

/-- Marking changes neither the destination nor the instruction of an owner, so it changes no message. -/
theorem messageOf_markEntry (v : Word) (h : RobEntry) (x : Harvested) :
    messageOf (markEntry v h) x = messageOf h x := by
  have kept := markEntry_evolves v h
  rw [messageOf, messageOf, kept.ins, kept.dest]

theorem announcement_harvestOne (x y : Harvested) (s : State) :
    announcement (harvestOne x s) y = announcement s y := by
  rw [announcement, announcement, harvestOne_robAt]
  split
  · cases robAt s y.tag with
    | none => rfl
    | some h => rw [Option.map_some, Option.bind_some, Option.bind_some, messageOf_markEntry]
  · rfl

theorem messages_cons {x : Harvested} {xs : List Harvested} {s : State} {h : RobEntry} (hx : harvestSet s = x :: xs)
    (e : robAt s x.tag = some h) : messages s = messageOf h x ++ messages (harvestOne x s) := by
  have rest : harvestSet (harvestOne x s) = xs := (removeHarvested_harvests hx).rest
  have same : announcement (harvestOne x s) = announcement s := funext fun y => announcement_harvestOne x y s
  rw [messages_eq, messages_eq, hx, rest, same, List.filterMap_cons]
  have first : announcement s x = (messageOf h x).head? := by rw [announcement, e, Option.bind_some]
  rw [first, messageOf]
  by_cases hm : h.dest ≠ 0 ∧ isSyscall h.ins.op = false
  · rw [if_pos hm]
    rfl
  · rw [if_neg hm]
    rfl

/-- The harvest loop: the pools and the load buffer without their harvestable entries, every owner marked, and the
messages. -/
theorem harvestAll_eq (xs : List Harvested) :
    ∀ {s : State} (ms : List CdbMsg), harvestSet s = xs → (xs.map (·.tag)).Nodup → (robTags s).Nodup →
      (∀ x ∈ xs, x.tag ∈ robTags s) →
      harvestAll xs s ms = ({ emptied s with rob := s.rob.map (robHarvested xs) }, ms ++ messages s) := by
  induction xs with
  | nil =>
    intro s ms hx _ _ _
    have unmarked : s.rob.map (robHarvested []) = s.rob := List.map_id' s.rob
    rw [emptied_of_harvestSet_nil hx, unmarked, messages_eq, hx, harvestAll, List.filterMap_nil, List.append_nil]
  | cons x xs ih =>
    intro s ms hx hdistinct hrob howners
    obtain ⟨hfirst, hdistinct⟩ := List.nodup_cons.1 hdistinct
    obtain ⟨h, e⟩ := mem_robTags_iff.1 (howners x List.mem_cons_self)
    have tags : robTags (harvestOne x s) = robTags s := (harvestOne_evolves x s).tags
    have others : ∀ y ∈ xs, y.tag ≠ x.tag := fun y hy he => hfirst (List.mem_map.2 ⟨y, hy, he⟩)
    have marked : (harvestOne x s).rob.map (robHarvested xs) = s.rob.map (robHarvested (x :: xs)) := by
      rw [harvestOne_rob hrob, List.map_map]
      exact List.map_congr_left fun g _ => (robHarvested_cons others g).symm
    have left : emptied (harvestOne x s) = { emptied s with rob := (harvestOne x s).rob } := by
      rw [← emptied_removeHarvested x s]
      rfl
    have rest : harvestSet (harvestOne x s) = xs := (removeHarvested_harvests hx).rest
    rw [harvestAll_cons xs ms e, ih _ rest hdistinct (tags ▸ hrob)
      (fun y hy => tags ▸ howners y (List.mem_cons_of_mem _ hy)), marked, left, List.append_assoc, ← messages_cons hx e]

/-! ### The delivery of the messages -/

/-- A first message resolves a slot of its tag for good, since no message has tag 0. -/
theorem heard_cons {m : CdbMsg} {ms : List CdbMsg} (hms : ∀ m ∈ ms, m.tag ≠ 0) (v : Word) (q : Tag) :
    heard (m :: ms) v q = if q = m.tag then heard ms m.value 0 else heard ms v q := by
  by_cases hq : q = m.tag
  · have silent : ms.find? (fun m => m.tag == 0) = none := find_none fun m hm => by simpa using hms m hm
    rw [if_pos hq, heard, heard, silent, List.find?_cons_of_pos (by simp [hq])]
  · rw [if_neg hq, heard, heard, List.find?_cons_of_neg (by simpa using Ne.symm hq)]

theorem rsHeard_cons {m : CdbMsg} {ms : List CdbMsg} (hms : ∀ m ∈ ms, m.tag ≠ 0) (e : RsEntry) :
    rsHeard (m :: ms) e = rsHeard ms (resolveRs m e) := by
  by_cases hj : e.qj = m.tag
  · by_cases hk : e.qk = m.tag <;> simp [rsHeard, heard_cons hms, resolveRs, hj, hk]
  · by_cases hk : e.qk = m.tag <;> simp [rsHeard, heard_cons hms, resolveRs, hj, hk]

theorem robHeard_cons {m : CdbMsg} {ms : List CdbMsg} (hms : ∀ m ∈ ms, m.tag ≠ 0) (h : RobEntry) :
    robHeard (m :: ms) h = robHeard ms (resolveRob m h) := by
  by_cases hq : h.storeQ = m.tag
  · have silent : ms.find? (fun m => m.tag == 0) = none := find_none fun m hm => by simpa using hms m hm
    rw [robHeard, robHeard, resolveRob, if_pos hq, silent, List.find?_cons_of_pos (by simp [hq])]
  · rw [robHeard, robHeard, resolveRob, if_neg hq, List.find?_cons_of_neg (by simpa using Ne.symm hq)]

/-- All messages, one after the other: every slot hears the one it waits for. -/
theorem deliverAll_eq (ms : List CdbMsg) :
    ∀ s : State, (∀ m ∈ ms, m.tag ≠ 0) → ms.foldl deliver s = { s with
      rsAlu := s.rsAlu.map (rsHeard ms), rsMd := s.rsMd.map (rsHeard ms), rsAgu := s.rsAgu.map (rsHeard ms)
      rob := s.rob.map (robHeard ms) } := by
  induction ms with
  | nil =>
    intro s _
    have pool (es : List RsEntry) : es.map (rsHeard []) = es := List.map_id' es
    have rob : s.rob.map (robHeard []) = s.rob := List.map_id' s.rob
    rw [pool, pool, pool, rob]
    rfl
  | cons m ms ih =>
    intro s hms
    have later : ∀ m ∈ ms, m.tag ≠ 0 := fun m' hm' => hms m' (List.mem_cons_of_mem _ hm')
    have pool (es : List RsEntry) : (es.map (resolveRs m)).map (rsHeard ms) = es.map (rsHeard (m :: ms)) := by
      rw [List.map_map]
      exact List.map_congr_left fun e _ => (rsHeard_cons later e).symm
    have rob : (s.rob.map (resolveRob m)).map (robHeard ms) = s.rob.map (robHeard (m :: ms)) := by
      rw [List.map_map]
      exact List.map_congr_left fun h _ => (robHeard_cons later h).symm
    rw [List.foldl_cons, ih _ later]
    simp only [deliver, pool, rob]

/-- A message carries the tag of a present entry, which is not 0. -/
theorem messages_tag {s : State} (ho : TagsInOrder s) : ∀ m ∈ messages s, m.tag ≠ 0 := by
  intro m hm
  rw [messages_eq] at hm
  obtain ⟨x, _, ha⟩ := List.mem_filterMap.1 hm
  obtain ⟨h, e, hh⟩ := Option.bind_eq_some_iff.1 ha
  exact messageOf_tag (List.mem_of_head? hh) ▸ (robAt_range ho e).1

/-! ### The whole stage -/

/-- What the harvest leaves, in the words of R350. -/
theorem emptied_eq (s : State) : emptied s = { s with
    rsAlu := s.rsAlu.filter fun e => e.progress = 0
    rsMd := s.rsMd.filter fun e => e.progress < latency s.cfg e.ins.op
    rsAgu := s.rsAgu.filter fun e => ¬ (opKind e.ins.op = .loadReserved ∧ 1 ≤ e.progress)
    lb := s.lb.filter fun l => l.progress < s.cfg.cacheLat } := by
  have early (m n : Nat) : (!decide (m ≤ n)) = decide (n < m) := by rw [← decide_not, decide_eq_decide, Nat.not_le]
  have alu (e : RsEntry) : (!aluDone e) = decide (e.progress = 0) := by
    rw [aluDone, early, decide_eq_decide, Nat.lt_one_iff]
  have md (e : RsEntry) : (!mdDone s.cfg e) = decide (e.progress < latency s.cfg e.ins.op) := early _ _
  have agu (e : RsEntry) : (!aguDone e) = decide (¬ (opKind e.ins.op = .loadReserved ∧ 1 ≤ e.progress)) := by
    rw [aguDone, isLoadReserved, decide_not, Bool.decide_and]
    rfl
  have lb (l : LbEntry) : (!lbDone s.cfg l) = decide (l.progress < s.cfg.cacheLat) := early _ _
  simp only [emptied, alu, md, agu, lb]

/-- Settles O43: the harvest loop and then the messages, each over all of its entries at once. -/
theorem broadcastInFull : Obligations.BroadcastInFull := by
  intro s hr ho howners hone
  have distinct : (harvestTags s).Nodup := ((oneUnitPerTag_iff s).1 hone).sublist (harvestTags_sublist s)
  have robDistinct : (robTags s).Nodup := (((tagsInOrder_iff s).1 ho).1).imp Nat.ne_of_lt
  have owners : ∀ x ∈ harvestSet s, x.tag ∈ robTags s := fun x hx => List.mem_map.2 (howners x hx)
  rw [broadcastStage, harvestAll_eq (harvestSet s) [] rfl distinct robDistinct owners, emptied_eq]
  dsimp only
  rw [if_pos hr, List.nil_append, deliverAll_eq _ _ (messages_tag ho)]

end Sys2Proof.Machine
end

section
/-! PROOFS. A tag is harvested once (45_cdb.md R351, R354): it leaves the pools and the load buffer with its harvest, no stage
but issue puts an entry there, and issue takes a new tag. -/

namespace Sys2Proof.Machine

/-! ### Spent tags -/

/-- A tag that has been handed out and has no entry in the pools and the load buffer. -/
def Spent (q : Tag) (s : State) : Prop := q < s.nextTag ∧ q ∉ unitTags s

section

variable {s u : State} {q t : Tag} {o : Op}

/-- A move that hands out no tag and puts no new tag into a unit keeps a tag spent. -/
theorem Spent.of_subset (h : Spent q s) (hnext : u.nextTag = s.nextTag) (hunits : unitTags u ⊆ unitTags s) :
    Spent q u :=
  ⟨hnext ▸ h.1, fun hq => h.2 (hunits hq)⟩

theorem Spent.of_eq (h : Spent q s) (hnext : u.nextTag = s.nextTag) (hunits : unitTags u = unitTags s) : Spent q u :=
  h.of_subset hnext (hunits ▸ List.Subset.refl _)

theorem Spent.of_empty (hlt : q < u.nextTag) (hu : units u = []) : Spent q u := by
  refine ⟨hlt, ?_⟩
  rw [unitTags, hu]
  exact List.not_mem_nil

theorem UnitsLeft.unitTags_subset (h : UnitsLeft s u) : unitTags u ⊆ unitTags s := by
  intro q hq
  obtain ⟨x, hx, rfl⟩ := List.mem_map.1 hq
  exact List.mem_map_of_mem (h.mem hx)

/-- Where the four lists of tags are the same, so is the list of the units' tags. -/
theorem unitTags_congr (halu : u.rsAlu.map (·.dest) = s.rsAlu.map (·.dest))
    (hmd : u.rsMd.map (·.dest) = s.rsMd.map (·.dest)) (hagu : u.rsAgu.map (·.dest) = s.rsAgu.map (·.dest))
    (hlb : u.lb.map (·.owner) = s.lb.map (·.owner)) : unitTags u = unitTags s := by
  rw [unitTags, unitTags, units_tags, units_tags, halu, hmd, hagu, hlb]

/-! ### Commit -/

/-- Commit leaves the units and what can be harvested as they are, or a squash empties them. -/
theorem CommitResult.units_cases (r : CommitResult o s u) :
    (units u = units s ∧ harvestSet u = harvestSet s) ∨ units u = [] := by
  cases r with
  | retire =>
    rw [writeBack_eq]
    exact .inl ⟨rfl, rfl⟩
  | squash => exact .inr rfl
  | idle => exact .inl ⟨rfl, rfl⟩
  | stop => exact .inl ⟨rfl, rfl⟩
  | hold => exact .inl ⟨rfl, rfl⟩
  | branch => exact .inl ⟨rfl, rfl⟩

theorem commitStage_units_cases (h : commitStage s = .next u) :
    (units u = units s ∧ harvestSet u = harvestSet s) ∨ units u = [] := by
  rcases commitStage_cases h with ⟨_, rfl⟩ | ⟨_, _, _, _, r, rfl⟩
  · exact .inl ⟨rfl, rfl⟩
  · exact r.units_cases

theorem commitStage_spent (h : Spent q s) (hc : commitStage s = .next u) : Spent q u := by
  have hnext := (commitStage_tagsKept hc).2
  rcases commitStage_units_cases hc with ⟨hu, _⟩ | hu
  · exact h.of_eq hnext (by rw [unitTags, unitTags, hu])
  · exact .of_empty (hnext ▸ h.1) hu

/-! ### Broadcast -/

theorem unitTags_removeHarvested (x : Harvested) (s : State) : unitTags (removeHarvested x s) ⊆ unitTags s := by
  have erased {p : RsEntry → Bool} {es : List RsEntry} : ((es.eraseP p).map (·.dest)).Sublist (es.map (·.dest)) :=
    List.eraseP_sublist.map _
  refine List.Sublist.subset ?_
  rw [unitTags, unitTags, units_tags, units_tags]
  unfold removeHarvested
  split
  · exact ((erased.append (.refl _)).append (.refl _)).append (.refl _)
  · exact (((List.Sublist.refl _).append erased).append (.refl _)).append (.refl _)
  · exact ((List.Sublist.refl _).append erased).append (.refl _)
  · exact (List.Sublist.refl _).append (List.eraseP_sublist.map _)

theorem harvestOne_spent (x : Harvested) (h : Spent q s) : Spent q (harvestOne x s) :=
  h.of_subset (harvestOne_evolves x s).nextTag (unitTags_removeHarvested x s)

theorem harvestAll_spent (xs : List Harvested) :
    ∀ {s : State} (ms : List CdbMsg), Spent q s → Spent q (harvestAll xs s ms).1 := by
  induction xs with
  | nil => exact fun _ h => h
  | cons x xs ih =>
    intro s ms h
    cases e : robAt s x.tag with
    | none =>
      have stopped : harvestAll (x :: xs) s ms = (raise (.staleTag x.tag) (removeHarvested x s), ms) := by
        rw [harvestAll]
        simp only [robAt_congr (removeHarvested_rob x s), e]
      rw [stopped]
      exact h.of_subset (removeHarvested_backendOnly x s).nextTag (unitTags_removeHarvested x s)
    | some g =>
      rw [harvestAll_cons xs ms e]
      exact ih _ (harvestOne_spent x h)

theorem deliverAll_spent (ms : List CdbMsg) : ∀ {s : State}, Spent q s → Spent q (ms.foldl deliver s) := by
  induction ms with
  | nil => exact id
  | cons m ms ih =>
    intro s h
    have same : unitTags (deliver s m) = unitTags s := by rw [unitTags, unitTags, units_deliver]
    exact ih (h.of_eq rfl same)

/-- What the harvest has spent, the broadcast stage has. -/
theorem broadcastStage_spent_of_harvest (h : Spent q (harvestAll (harvestSet s) s []).1)
    (hb : broadcastStage s = .next u) : Spent q u := by
  unfold broadcastStage at hb
  dsimp only at hb
  split at hb
  · cases hb
    exact deliverAll_spent _ h
  · cases hb
    exact h

theorem broadcastStage_spent (h : Spent q s) (hb : broadcastStage s = .next u) : Spent q u :=
  broadcastStage_spent_of_harvest (harvestAll_spent _ _ h) hb

/-- A harvested element's tag is spent once the element has left: no other unit has it. -/
theorem InFlight.harvestOne_spends {x : Harvested} {xs : List Harvested} (hs : InFlight s)
    (hx : harvestSet s = x :: xs) : Spent x.tag (harvestOne x s) := by
  obtain ⟨h, e⟩ := hs.harvested_owner hx
  obtain ⟨d, hperm⟩ := (removeHarvested_harvests hx).unit
  have distinct := ((hperm.map (·.1)).nodup_iff).1 hs.oneUnit
  exact ⟨(harvestOne_evolves x s).nextTag ▸ (robAt_range hs.order e).2, (List.nodup_cons.1 distinct).1⟩

/-- The harvest spends the tag of each of its elements. -/
theorem InFlight.harvestAll_spends (xs : List Harvested) :
    ∀ {s : State} (ms : List CdbMsg), InFlight s → harvestSet s = xs →
      ∀ x ∈ xs, Spent x.tag (harvestAll xs s ms).1 := by
  induction xs with
  | nil => exact fun _ _ _ x hx => absurd hx List.not_mem_nil
  | cons y ys ih =>
    intro s ms hs hy x hx
    obtain ⟨h, e⟩ := hs.harvested_owner hy
    rw [harvestAll_cons ys ms e]
    rcases List.mem_cons.1 hx with rfl | hx
    · exact harvestAll_spent ys _ (hs.harvestOne_spends hy)
    · exact ih _ (hs.after_harvestOne hy) (removeHarvested_harvests hy).rest x hx

/-! ### Execute -/

theorem unitTags_setMd (e : RsEntry) (s : State) : unitTags (setMd e s) = unitTags s :=
  unitTags_congr rfl (updateFirst_map_of_mem _ fun _ _ hx => (beq_iff_eq.1 hx).symm) rfl rfl

theorem unitTags_setLb (l : LbEntry) (s : State) : unitTags (setLb l s) = unitTags s :=
  unitTags_congr rfl rfl rfl (updateFirst_map_of_mem _ fun _ _ hx => (beq_iff_eq.1 hx).symm)

theorem unitTags_mdAdvance (lat : Nat) (f : Word → Word → Option Word) (op : DivOp) (t : Tag) (s : State) :
    unitTags (mdAdvance lat f op t s) = unitTags s := by
  unfold mdAdvance
  split
  · rfl
  · dsimp only
    split
    · split
      · exact unitTags_setMd _ s
      · exact unitTags_setMd _ s
    · exact unitTags_setMd _ s

theorem unitTags_aguLoad (t : Tag) (s : State) : unitTags (aguLoad t s) ⊆ unitTags s := by
  unfold aguLoad
  split
  · exact List.Subset.refl _
  · rename_i e h
    exact (dropAgu_addLb_unitMove h 0).units.unitTags_subset

theorem unitTags_aguStore (t : Tag) (s : State) : unitTags (aguStore t s) ⊆ unitTags s := by
  unfold aguStore
  split
  · exact List.Subset.refl _
  · rename_i e h
    split
    · exact List.Subset.refl _
    · exact (dropAgu_unitMove (s := setAddress t (effectiveAddress e) s) h).units.unitTags_subset

theorem unitTags_aguAmo (t : Tag) (s : State) : unitTags (aguAmo t s) ⊆ unitTags s := by
  unfold aguAmo
  split
  · exact List.Subset.refl _
  · rename_i e h
    split
    · exact List.Subset.refl _
    · exact (dropAgu_addLb_unitMove (s := setAddress t (effectiveAddress e) s) h e.vk).units.unitTags_subset

theorem unitTags_aguLoadReserved (t : Tag) (s : State) : unitTags (aguLoadReserved t s) = unitTags s := by
  unfold aguLoadReserved
  split
  · rfl
  · split
    · rfl
    · exact unitTags_congr rfl rfl
        (updateFirst_map (f := fun x : RsEntry => { x with result := 0, progress := 1 }) _ (fun _ => rfl) _) rfl

theorem ExecuteMove.unitTags_subset (m : ExecuteMove o t s u) : unitTags u ⊆ unitTags s := by
  cases m with
  | alu f => exact (aluEvaluate_unitMove f t s).units.unitTags_subset
  | md lat f op => exact unitTags_mdAdvance lat f op t s ▸ List.Subset.refl _
  | load => exact unitTags_aguLoad t s
  | store => exact unitTags_aguStore t s
  | amo => exact unitTags_aguAmo t s
  | loadReserved => exact unitTags_aguLoadReserved t s ▸ List.Subset.refl _
  | refused => exact List.Subset.refl _

/-! ### The load buffer -/

theorem unitTags_finishAmo (result new : Word → Word → Word) (l : LbEntry) (old : Word) (s : State) :
    unitTags (finishAmo result new l old s) = unitTags s := by
  unfold finishAmo
  dsimp only
  split
  · exact unitTags_setLb _ s
  · exact unitTags_setLb _ s

theorem unitTags_lbProceed (wl : Width) {fin : LbEntry → Word → State → State}
    (hfin : ∀ l v s, unitTags (fin l v s) = unitTags s) (l : LbEntry) (s : State) :
    unitTags (lbProceed wl fin l s) = unitTags s := by
  have counted : unitTags (setLb { l with progress := l.progress + 1 } s) = unitTags s := unitTags_setLb _ s
  unfold lbProceed
  dsimp only
  split
  · split
    · exact (hfin _ _ _).trans counted
    · split
      · exact counted
      · exact (hfin _ _ _).trans counted
  · exact counted

theorem unitTags_lbAdvance (wl : Width) {fin : LbEntry → Word → State → State}
    (hfin : ∀ l v s, unitTags (fin l v s) = unitTags s) (t : Tag) (s : State) :
    unitTags (lbAdvance wl fin t s) = unitTags s := by
  unfold lbAdvance
  split
  · rfl
  · split
    · exact unitTags_lbProceed wl hfin _ s
    · split
      · rfl
      · exact unitTags_lbProceed wl hfin _ s
      · exact unitTags_lbProceed wl hfin _ s
      · rfl

theorem LoadMove.unitTags_eq (m : LoadMove o t s u) : unitTags u = unitTags s := by
  cases m with
  | load w sign => exact unitTags_lbAdvance w (fun _ _ s => unitTags_setLb _ s) t s
  | amo result new => exact unitTags_lbAdvance .word (unitTags_finishAmo result new) t s
  | other => rfl
  | refused => rfl

theorem execAt_execute_spent (h : Spent q s) (hx : execAt (.execute t) o s = .next u) : Spent q u := by
  obtain ⟨v, hv, rfl⟩ := execAt_inv hx
  have m := execOp_execute rfl hv
  exact h.of_subset m.backendOnly.nextTag m.unitTags_subset

theorem execAt_load_spent (h : Spent q s) (hx : execAt (.load t) o s = .next u) : Spent q u := by
  obtain ⟨v, hv, rfl⟩ := execAt_inv hx
  have m := execOp_load rfl hv
  exact h.of_eq m.backendOnly.nextTag m.unitTags_eq

theorem runEntries_spent {stageOf : Tag → Stage} {work : List (Tag × Op)}
    (visit : ∀ t o s u, Spent q s → execAt (stageOf t) o s = .next u → Spent q u) (hr : s.status = .running)
    (h : Spent q s) (hx : runEntries stageOf work s = .next u) : Spent q u :=
  (runEntries_induction (fun _ _ _ _ _ hv hx => .of_both (visit _ _ _ _ hv hx)) hr h hx).both

theorem executeStage_spent (hr : s.status = .running) (h : Spent q s) (hx : executeStage s = .next u) :
    Spent q u := by
  refine (executeStage_induction (fun v w hvr hv hx => .of_both ?_) hr h hx).both
  have pool {work : List (Tag × Op)} (hx : runEntries .execute work v = .next w) : Spent q w :=
    runEntries_spent (fun _ _ _ _ => execAt_execute_spent) hvr hv hx
  rcases hx with hx | hx | hx | hx
  · exact pool hx
  · exact pool hx
  · exact pool hx
  · exact runEntries_spent (fun _ _ _ _ => execAt_load_spent) hvr hv hx

/-! ### Issue and fetch -/

/-- The new entry's tag is the next one, and a spent tag has been handed out before. -/
theorem issueAs_spent (form : IssueForm) (h : Spent q s) : Spent q (issueAs form s) := by
  obtain ⟨hlt, hnot⟩ := h
  rcases issueAs_cases form s with ⟨_, he⟩ | ⟨_, _, _, _, _, he⟩ | ⟨r, waiting, j, k, d, _, _, he⟩
  · rw [he]
    exact ⟨hlt, hnot⟩
  · rw [he]
    exact ⟨Nat.lt_succ_of_lt hlt, hnot⟩
  · rw [he]
    have i := setPool_issues (s := s) (n := newRobEntry form r s.nextTag d) (e := newRsEntry form r s.nextTag j k)
      form.pool waiting rfl rfl rfl
    refine ⟨Nat.lt_of_lt_of_eq (Nat.lt_succ_of_lt hlt) i.nextTag.symm, fun hq => ?_⟩
    rcases List.mem_cons.1 ((i.unit.map (·.1)).subset hq) with hnew | hold
    · exact Nat.ne_of_lt hlt hnew
    · exact hnot hold

theorem IssueMove.spent (m : IssueMove o s u) (h : Spent q s) : Spent q u := by
  cases m with
  | issue form => exact issueAs_spent form h
  | jalr form =>
    obtain ⟨_, he⟩ := issueJalr_eq form s
    rw [he]
    exact issueAs_spent form h
  | refused => exact h

theorem issueStage_spent (h : Spent q s) (hi : issueStage s = .next u) : Spent q u := by
  rcases issueStage_cases hi with ⟨_, rfl⟩ | ⟨_, _, _, _, m, rfl⟩
  · exact h
  · exact m.spent h

theorem FrontendOnly.spent (f : FrontendOnly s u) (h : Spent q s) : Spent q u := by
  refine h.of_eq f.nextTag ?_
  rw [unitTags, unitTags, units, units, f.rsAlu, f.rsMd, f.rsAgu, f.lb]

/-! ### Every step and every run -/

/-- A tag that is spent after the broadcast of a step is spent after the step, if the run goes on. -/
theorem step_spent_of_broadcast {C : State → Prop} (h : step s = .next u)
    (commit : ∀ a, a.status = .running → commitStage s = .next a → C a)
    (broadcast : ∀ a b, C a → broadcastStage a = .next b → Spent q b) : Goes (Spent q) (fun _ => True) u := by
  have goes {P : State → Prop} {v : State} (hv : v.status = .running → P v) : Goes P (fun _ => True) v :=
    ⟨hv, fun _ => trivial⟩
  exact step_induction (C := C) (B := Spent q) (X := Spent q) (I := Spent q) (F := Spent q) h
    (fun a ha => goes fun hr => commit a hr ha) (fun a b _ hc hb => goes fun _ => broadcast a b hc hb)
    (fun _ _ hr hb hx => goes fun _ => executeStage_spent hr hb hx)
    (fun _ _ _ hx hi => goes fun _ => issueStage_spent hx hi)
    (fun _ _ _ hi hf => goes fun _ => (fetchStage_frontendOnly hf).spent hi) (fun _ _ he => he)

/-- A spent tag stays spent for as long as the run goes on. -/
theorem run_spent {n : Nat} (h : Spent q s) (hrun : core.run n s = .next u) (hu : u.status = .running) : Spent q u := by
  have stays : ∀ v w, Goes (Spent q) (fun _ => True) v → step v = .next w → Goes (Spent q) (fun _ => True) w :=
    fun v w hv hw => step_spent_of_broadcast (C := Spent q) hw (fun _ _ => commitStage_spent (hv.1 (step_next hw).1))
      fun _ _ => broadcastStage_spent
  exact (run_induction stays n s u ⟨fun _ => h, fun _ => trivial⟩ hrun).1 hu

/-- The tag of a unit has been handed out. -/
theorem InFlight.unitTags_lt (hs : InFlight s) (hq : q ∈ unitTags s) : q < s.nextTag := by
  obtain ⟨x, hx, rfl⟩ := List.mem_map.1 hq
  obtain ⟨h, e, _⟩ := hs.owned x hx
  exact (robAt_range hs.order e).2

/-- A step spends the tag of everything that is harvestable at its start: the broadcast harvests it, or the commit before has
squashed it. -/
theorem TickStart.step_spends {x : Harvested} (hs : TickStart s) (hx : x ∈ harvestSet s) (h : step s = .next u)
    (hu : u.status = .running) : Spent x.tag u := by
  have given : x.tag < s.nextTag :=
    hs.inFlight.unitTags_lt ((harvestTags_sublist s).subset (List.mem_map_of_mem hx))
  refine (step_spent_of_broadcast (C := fun a => InFlight a ∧ (x ∈ harvestSet a ∨ Spent x.tag a)) h
    (fun a hr hc => ?_) (fun a b ⟨ha, hcases⟩ hb => ?_)).1 hu
  · refine ⟨((hs.after_commitStage (step_next h).1 hc).1 hr).inFlight, ?_⟩
    rcases commitStage_units_cases hc with ⟨_, hsame⟩ | hempty
    · exact .inl (hsame ▸ hx)
    · exact .inr (.of_empty ((commitStage_tagsKept hc).2 ▸ given) hempty)
  · rcases hcases with hx | hspent
    · exact broadcastStage_spent_of_harvest (ha.harvestAll_spends _ _ rfl x hx) hb
    · exact broadcastStage_spent hspent hb

theorem run_succ {n : Nat} (h : core.run (n + 1) s = .next u) : ∃ v, step s = .next v ∧ core.run n v = .next u := by
  simp only [Host.Core.run] at h
  split at h
  · rename_i v hv
    exact ⟨v, hv, h⟩
  · cases h
  · cases h

/-- The start of a run that goes on goes on itself. -/
theorem run_status {n : Nat} (h : core.run n s = .next u) (hu : u.status = .running) : s.status = .running := by
  cases n with
  | zero =>
    cases h
    exact hu
  | succ n =>
    obtain ⟨v, hv, _⟩ := run_succ h
    exact (step_next hv).1

end

/-- Settles O17: the invariant has one unit for each tag, so the harvest has distinct tags; a harvested tag is spent from
then on, and what is harvestable stands in a unit. -/
theorem tagsHaveOneUnit : Obligations.TagsHaveOneUnit := by
  intro cfg entry regs mem n s _ hreach hr
  have hs := (reaches_tickStart hreach).1 hr
  have distinct : (unitTags s).Nodup := hs.inFlight.oneUnit
  refine ⟨(oneUnitPerTag_iff s).2 distinct, distinct.sublist (harvestTags_sublist s), ?_⟩
  intro m t hrun ht x hx y hy he
  obtain ⟨u, hu, hrest⟩ := run_succ hrun
  have spent : Spent x.tag t := run_spent (hs.step_spends hx hu (run_status hrest ht)) hrest ht
  exact spent.2 (he ▸ (harvestTags_sublist t).subset (List.mem_map_of_mem hy))

end Sys2Proof.Machine
end

section
/-! PROOFS. The commit stage (46_commit.md R370 to R383): each class at the head as the whole next state, what commit leaves
alone unless it squashes, and an ECALL alone in the core. -/

namespace Sys2Proof.Machine

/-! ### The four commit classes on a known head -/

section

variable {s : State} {h : RobEntry} {younger : List RobEntry} {w : Width}

theorem commitStore_stalls (hrob : s.rob = h :: younger) (hstall : h.addrReady = false ∨ h.valueReady = false) :
    commitStore w s = s := by
  rw [commitStore, hrob]
  exact if_pos hstall

/-- The latency tick of a store-class head (46_commit.md R372). -/
theorem commitStore_holds (hrob : s.rob = h :: younger) (haddr : h.addrReady = true) (hvalue : h.valueReady = true)
    (hp : h.progress = 0) : commitStore w s = { s with rob := { h with progress := 1 } :: younger } := by
  simp [commitStore, hrob, haddr, hvalue, hp]

theorem commitStore_faults {f : Fault} (hrob : s.rob = h :: younger) (haddr : h.addrReady = true)
    (hvalue : h.valueReady = true) (hp : h.progress ≠ 0) (hf : accessFault s.cfg h.addr (widthBytes w) = some f) :
    commitStore w s = raise f s := by
  simp [commitStore, hrob, haddr, hvalue, hp, hf]

theorem commitStore_writes (hrob : s.rob = h :: younger) (haddr : h.addrReady = true) (hvalue : h.valueReady = true)
    (hp : h.progress ≠ 0) (hf : accessFault s.cfg h.addr (widthBytes w) = none) :
    commitStore w s = { s with
      mem := memWrite s.mem h.addr (widthBytes w) h.wb
      regs := regsWith s h.dest h.result, rst := rstReleased s h.dest h.tag, rob := younger } := by
  simp [commitStore, hrob, haddr, hvalue, hp, hf, writeBack_eq, retire, regsWith, rstReleased]

/-- An ECALL that continues (R375, R383): x10 is written, whatever the release of x10 does is lost in the squash. -/
theorem commitSyscall_resumes {v : Word} {writes : List (Word × Byte)} (hrob : s.rob = h :: younger)
    (hv : h.valueReady = true) (hd : dispatch s = .resume v writes) :
    commitSyscall s = squashed { s with
      regs := s.regs.set 10 v, mem := writeBytes s.mem writes, pc := h.result } := by
  simp only [commitSyscall, hrob, hv, hd, Bool.true_eq_false, if_false]
  exact syscall_squash v writes h s

theorem commitSyscall_exits {code : Word} (hrob : s.rob = h :: younger) (hv : h.valueReady = true)
    (hd : dispatch s = .exit code) : commitSyscall s = { s with status := .exited code } := by
  simp [commitSyscall, hrob, hv, hd]

theorem commitSyscall_unimplemented {n : Word} (hrob : s.rob = h :: younger) (hv : h.valueReady = true)
    (hd : dispatch s = .unimplemented n) : commitSyscall s = raise (.syscallFault n) s := by
  simp [commitSyscall, hrob, hv, hd]

theorem commitSyscall_memFault {a : Word} (hrob : s.rob = h :: younger) (hv : h.valueReady = true)
    (hd : dispatch s = .memFault a) : commitSyscall s = raise (.memoryFault a) s := by
  simp [commitSyscall, hrob, hv, hd]

end

/-! ### What commit leaves alone -/

/-- The head makes commit squash: a completed branch whose outcome is not its prediction, or an ECALL with its next pc
(46_commit.md R382). -/
def Squashes (h : RobEntry) : Prop :=
  (opKind h.ins.op = .branch ∧ h.complete = true ∧ ¬ (h.result = 1 ↔ h.ins.pred = true)) ∨
    (isSyscall h.ins.op = true ∧ h.valueReady = true)

/-- Nothing in flight has been discarded: at most the head of the reorder buffer has left. -/
structure NothingSquashed (s u : State) : Prop where
  iq : u.iq = s.iq
  rsAlu : u.rsAlu = s.rsAlu
  rsMd : u.rsMd = s.rsMd
  rsAgu : u.rsAgu = s.rsAgu
  lb : u.lb = s.lb
  jalrWait : u.jalrWait = s.jalrWait
  pc : u.pc = s.pc
  nextTag : u.nextTag = s.nextTag
  cycle : u.cycle = s.cycle
  rob : robTags u = robTags s ∨ u.rob = s.rob.tail

section

variable {s u : State} {h : RobEntry} {younger : List RobEntry} {w : Width}

theorem NothingSquashed.refl (s : State) : NothingSquashed s s := ⟨rfl, rfl, rfl, rfl, rfl, rfl, rfl, rfl, rfl, .inl rfl⟩

theorem NothingSquashed.raise (s : State) (f : Fault) : NothingSquashed s (raise f s) :=
  ⟨rfl, rfl, rfl, rfl, rfl, rfl, rfl, rfl, rfl, .inl rfl⟩

/-- A head that leaves takes nothing in flight along, whatever it writes. -/
theorem NothingSquashed.retired (hrob : s.rob = h :: younger) (regs : RegFile) (mem : Memory)
    (rst : Vector RstEntry 32) (pred : PredState) :
    NothingSquashed s { s with regs := regs, mem := mem, rst := rst, pred := pred, rob := younger } :=
  ⟨rfl, rfl, rfl, rfl, rfl, rfl, rfl, rfl, rfl, .inr (congrArg List.tail hrob).symm⟩

theorem commitStore_nothingSquashed (hrob : s.rob = h :: younger) : NothingSquashed s (commitStore w s) := by
  by_cases hstall : h.addrReady = false ∨ h.valueReady = false
  · rw [commitStore_stalls hrob hstall]
    exact .refl s
  obtain ⟨haddr, hvalue⟩ : h.addrReady = true ∧ h.valueReady = true := by simpa using hstall
  by_cases hp : h.progress = 0
  · rw [commitStore_holds hrob haddr hvalue hp]
    exact ⟨rfl, rfl, rfl, rfl, rfl, rfl, rfl, rfl, rfl, .inl (by simp [robTags, hrob])⟩
  cases hf : accessFault s.cfg h.addr (widthBytes w) with
  | some f =>
    rw [commitStore_faults hrob haddr hvalue hp hf]
    exact .raise s f
  | none =>
    rw [commitStore_writes hrob haddr hvalue hp hf]
    exact .retired hrob _ _ _ _

/-- Only a head that squashes makes commit discard anything. -/
theorem CommitMove.nothingSquashed (m : CommitMove h.ins.op s u) (hrob : s.rob = h :: younger) (hh : ¬ Squashes h) :
    NothingSquashed s u := by
  cases m with
  | other =>
    cases hc : h.complete with
    | false =>
      rw [commitOther_waits hrob hc]
      exact .refl s
    | true =>
      rw [commitOther_retires hrob hc]
      exact .retired hrob _ _ _ _
  | store w => exact commitStore_nothingSquashed hrob
  | branch imm hkind =>
    cases hc : h.complete with
    | false =>
      rw [commitBranch_waits imm hrob hc]
      exact .refl s
    | true =>
      have right : h.result = 1 ↔ h.ins.pred = true :=
        Classical.byContradiction fun wrong => hh (.inl ⟨hkind, hc, wrong⟩)
      rw [commitBranch_right imm hrob hc (Bool.eq_iff_iff.2 (by simpa using right))]
      exact .retired hrob _ _ _ _
  | syscall hkind =>
    have hsys : isSyscall h.ins.op = true := by simp [isSyscall, hkind]
    have waits : h.valueReady = false := Bool.eq_false_iff.2 fun ready => hh (.inr ⟨hsys, ready⟩)
    rw [commitSyscall_waits hrob waits]
    exact .refl s
  | refused => exact .raise s _

end

/-- Settles O10: commit moves the head by its class, and each class but a wrong branch and a ready ECALL keeps what is in
flight. -/
theorem onlyTwoEventsSquash : Obligations.OnlyTwoEventsSquash := by
  intro s c hcommit hevent
  have kept : NothingSquashed s c := by
    cases hrob : s.rob with
    | nil =>
      rw [commitStage_empty hrob] at hcommit
      cases hcommit
      exact .refl s
    | cons h younger =>
      rw [commitStage_cons hrob] at hcommit
      obtain ⟨v, hv, rfl⟩ := execAt_inv hcommit
      obtain ⟨hiq, halu, hmd, hagu, hlb, hwait, hpc, htag, hcycle, htags⟩ :=
        (execOp_commit rfl hv).nothingSquashed hrob fun hh => hevent ⟨h, younger, hrob, hh⟩
      exact ⟨hiq, halu, hmd, hagu, hlb, hwait, hpc, htag, hcycle, htags⟩
  obtain ⟨hiq, halu, hmd, hagu, hlb, hwait, hpc, htag, hcycle, htags⟩ := kept
  exact ⟨hiq, halu, hmd, hagu, hlb, hwait, hpc, htag, hcycle, htags⟩

/-! ### An ECALL alone in the core -/

section

variable {s u : State}

/-- The dispatcher sees the registers, memory and the clock (60_exceptions.md R410). -/
theorem dispatch_congr (hregs : u.regs = s.regs) (hmem : u.mem = s.mem) (hcycle : u.cycle = s.cycle)
    (hcfg : u.cfg = s.cfg) : dispatch u = dispatch s := by
  rw [dispatch, dispatch, hregs, hmem, hcycle, hcfg]

/-- A tick whose commit ends the run. -/
theorem backTicks_stops (n : Nat) (hcommit : commitStage s = .next u) (hu : u.status ≠ .running) :
    backTicks (n + 1) s = .next u := by
  rw [backTicks, beforeFetch, hcommit, andThen_stopped hu, andThen_stopped hu, andThen_stopped hu, andThen_stopped hu,
    andThen_stopped hu]

/-- An ECALL as a record of the ALU pool: its result is the next pc (41_alu.md R201). -/
def ecallRecord (r : Decoded) : AluRecord where
  record := r
  form := aluForm (.const 0) (.const 0) 10
  result := r.pc + 4

variable {r : Decoded}

theorem ecallRecord_meets (ha : Alone s r) (hop : r.op = .ins .ecall) : (ecallRecord r).Meets s where
  quiet := ha.1
  iq := ha.2
  form := congrArg issueTableOp hop
  result := by
    rw [show (ecallRecord r).record.op = .ins .ecall from hop]
    rfl

/-- The entry that commit finds at the head in the fourth tick (45_cdb.md R352). -/
theorem ecallRecord_harvested (hop : r.op = .ins .ecall) :
    ∃ h, ((ecallRecord r).harvested s).rob = [h] ∧ h.ins = r ∧ h.valueReady = true ∧ h.result = r.pc + 4 := by
  have hsys : isSyscall ((ecallRecord r).entry s).ins.op = true := congrArg isSyscall hop
  refine ⟨_, rfl, ?_⟩
  rw [markEntry, if_pos hsys]
  exact ⟨rfl, rfl, rfl⟩

/-- Its commit, by what commitSyscall leaves besides the model's own `stage`. -/
theorem ecallRecord_commit (hop : r.op = .ins .ecall)
    (hu : commitSyscall { (ecallRecord r).harvested s with stage := .commit } = { u with stage := .commit })
    (hstage : u.stage = .fetch) : commitStage ((ecallRecord r).harvested s) = .next u := by
  obtain ⟨h, hrob, hins, _⟩ := ecallRecord_harvested (s := s) hop
  refine commitStage_exec hrob (hins ▸ hop) ?_ hstage
  rw [exec_commit_syscall rfl rfl, hu]

theorem ecall_resumes (ha : Alone s r) (hop : r.op = .ins .ecall) {v : Word} {writes : List (Word × Byte)}
    (hd : dispatch { s with cycle := s.cycle + 3 } = .resume v writes) :
    backTicks 4 s = .next { s with
      iq := [], nextTag := s.nextTag + 1, cycle := s.cycle + 4, pc := r.pc + 4, regs := s.regs.set 10 v
      mem := writeBytes s.mem writes } := by
  obtain ⟨hrun, hstage, hrob, halu, hmd, hagu, hlb, hrst, hwait, _⟩ := ha.1
  obtain ⟨h, hhead, _, hvalue, hresult⟩ := ecallRecord_harvested (s := s) hop
  have resumed := commitSyscall_resumes (s := { (ecallRecord r).harvested s with stage := .commit }) hhead hvalue
    ((dispatch_congr rfl rfl rfl rfl).trans hd)
  have committed := ecallRecord_commit (u := squashed { (ecallRecord r).harvested s with
    regs := s.regs.set 10 v, mem := writeBytes s.mem writes, pc := h.result }) hop resumed hstage
  rw [(ecallRecord_meets ha hop).four_ticks committed ⟨hrun, hstage, rfl, rfl⟩ rfl rfl rfl, hresult]
  simp only [squashed, AluRecord.harvested, AluRecord.atIssue, hrob, halu, hmd, hagu, hlb, hrst, hwait]
  rfl

theorem ecall_exits (ha : Alone s r) (hop : r.op = .ins .ecall) {code : Word}
    (hd : dispatch { s with cycle := s.cycle + 3 } = .exit code) :
    backTicks 4 s = .next { (ecallRecord r).harvested s with status := .exited code } := by
  obtain ⟨_, hstage, _⟩ := ha.1
  obtain ⟨h, hhead, _, hvalue, _⟩ := ecallRecord_harvested (s := s) hop
  have exited := commitSyscall_exits (s := { (ecallRecord r).harvested s with stage := .commit }) hhead hvalue
    ((dispatch_congr rfl rfl rfl rfl).trans hd)
  have committed := ecallRecord_commit (u := { (ecallRecord r).harvested s with status := .exited code }) hop exited hstage
  rw [(ecallRecord_meets ha hop).three_ticks 1, backTicks_stops 0 committed (by simp)]

end

/-- Settles O55: the three ticks of the ALU pool, then a commit that asks the dispatcher. -/
theorem ecallAlone : Obligations.EcallAlone := fun _ _ ha hop =>
  ⟨fun _ _ hd => ecall_resumes ha hop hd, fun _ hd => ⟨_, ecall_exits ha hop hd, rfl, rfl, rfl, rfl, rfl⟩⟩

/-! ### The statements about each class -/

namespace Commit

/-- Settles O44: class other and NOP share one commit, which waits or retires. -/
theorem commitOther : Obligations.CommitOther := by
  intro i s h tail hstage hrob hkind
  have ins : exec i s = .next (Machine.commitOther s) :=
    exec_commit_other hstage (hkind.imp_right (·.imp_right (·.imp_right (·.imp_right .inl))))
  have nop : execOp .nop s = .next (Machine.commitOther s) := life_commit hstage _ _ _ _ _
  refine ⟨fun hc => ?waits, fun hc => ?retires⟩
  case waits =>
    rw [commitOther_waits hrob hc] at ins nop
    exact ⟨ins, nop⟩
  case retires =>
    rw [commitOther_retires hrob hc] at ins nop
    exact ⟨ins, nop⟩

/-- Settles O45: the stall, the latency tick, the two faults of the access checks, and the write. -/
theorem commitStore : Obligations.CommitStore := by
  intro i w s h tail hstage hrob hw
  obtain ⟨misaligned, unmapped, allowed⟩ := accessChecks s.cfg h.addr (widthBytes w)
  rw [exec_commit_store hstage hw]
  refine ⟨fun hstall => congrArg _ (commitStore_stalls hrob hstall), fun haddr hvalue =>
    ⟨fun hp => congrArg _ (commitStore_holds hrob haddr hvalue hp), fun hp hm => ?_, fun hp hm hr => ?_, fun hp ha => ?_⟩⟩
  · exact congrArg _ (commitStore_faults hrob haddr hvalue hp (misaligned hm))
  · exact congrArg _ (commitStore_faults hrob haddr hvalue hp (unmapped hm hr))
  · exact congrArg _ (commitStore_writes hrob haddr hvalue hp (allowed ha))

/-- Settles O46: the stall, and the two commits of a completed branch. -/
theorem commitBranch : Obligations.CommitBranch := by
  intro i taken imm s h tail hstage hrob hshape
  rw [exec_commit_branch hstage hshape]
  refine ⟨fun hc => congrArg _ (commitBranch_waits imm hrob hc),
    fun hc hp => congrArg _ (commitBranch_right imm hrob hc hp.symm), fun hc hp => congrArg _ ?_⟩
  have target : branchTarget h imm (h.result == 1) = if h.result = 1 then h.ins.pc + imm else h.ins.pc + 4 := by
    simp [branchTarget]
  rw [commitBranch_wrong imm hrob hc hp.symm, target]
  rfl

/-- Settles O47: the stall, and one commit for each answer of the dispatcher. -/
theorem commitSyscall : Obligations.CommitSyscall := by
  intro s h tail hstage hrob
  rw [exec_commit_syscall hstage rfl]
  exact ⟨fun hv => congrArg _ (commitSyscall_waits hrob hv), fun hv =>
    ⟨fun _ _ hd => congrArg _ (commitSyscall_resumes hrob hv hd), fun _ hd => congrArg _ (commitSyscall_exits hrob hv hd),
      fun _ hd => congrArg _ (commitSyscall_unimplemented hrob hv hd),
      fun _ hd => congrArg _ (commitSyscall_memFault hrob hv hd)⟩⟩

end Commit

end Sys2Proof.Machine
end

section
/-! PROOFS. An instruction of any kind behind a mispredicted branch, tick by tick, up to the squash that erases it
(46_commit.md R374, R383 to R387; 20_memory.md R70, R73). -/

namespace Sys2Proof.Machine

/-! ### Issue of any record where no register is claimed -/

section

variable (form : IssueForm) (r : Decoded) (waiting : List Decoded) (s : State)

/-- The state after the issue of `r` where no register is claimed: every operand has its value. -/
def issuedFree : State :=
  issued form r waiting ⟨operandValue (readReg s) r.pc form.j, 0⟩ ⟨operandValue (readReg s) r.pc form.k, 0⟩
    ⟨dataValue (readReg s) form.data, 0⟩ s

/-- Its reorder-buffer entry. -/
def entryFree : RobEntry := newRobEntry form r s.nextTag ⟨dataValue (readReg s) form.data, 0⟩

/-- Its reservation-station entry. -/
def stationFree : RsEntry :=
  newRsEntry form r s.nextTag ⟨operandValue (readReg s) r.pc form.j, 0⟩ ⟨operandValue (readReg s) r.pc form.k, 0⟩

@[simp] theorem issuedFree_rob : (issuedFree form r waiting s).rob = s.rob ++ [entryFree form r s] := rfl
@[simp] theorem issuedFree_lb : (issuedFree form r waiting s).lb = s.lb := rfl
@[simp] theorem issuedFree_rsAlu : (issuedFree form r waiting s).rsAlu =
    if form.pool = .alu then s.rsAlu ++ [stationFree form r s] else s.rsAlu := rfl
@[simp] theorem issuedFree_rsMd : (issuedFree form r waiting s).rsMd =
    if form.pool = .md then s.rsMd ++ [stationFree form r s] else s.rsMd := rfl
@[simp] theorem issuedFree_rsAgu : (issuedFree form r waiting s).rsAgu =
    if form.pool = .agu then s.rsAgu ++ [stationFree form r s] else s.rsAgu := rfl
@[simp] theorem stationFree_dest : (stationFree form r s).dest = s.nextTag := rfl
@[simp] theorem stationFree_progress : (stationFree form r s).progress = 0 := rfl

end

section

variable {s : State} {form : IssueForm} {r : Decoded} {waiting : List Decoded}

theorem issueStage_free (hrun : s.status = .running) (hs : s.stage = .fetch) (hwait : s.jalrWait = .none)
    (hrst : s.rst = clearAll) (hiq : s.iq = r :: waiting) (hform : issueTableOp r.op = some form) :
    issueStage s = .next (issuedFree form r waiting s) := by
  have hj := readOperand_free hrst r.pc form.j
  have hk := readOperand_free hrst r.pc form.k
  have without (h : form.data = none) : (⟨dataValue (readReg s) form.data, 0⟩ : Slot) = ⟨0, 0⟩ := by
    rw [h]
    rfl
  have stored (b : Reg) (h : form.data = some b) : renameRead s b = .slot ⟨dataValue (readReg s) form.data, 0⟩ := by
    rw [h]
    exact renameRead_free hrst b
  rw [issueStage_cons hiq]
  refine execAt_execOp ?_ hs
  cases hop : r.op with
  | ins i =>
    rw [hop] at hform
    rw [execOp, issueFillsSlots i form { s with stage := .issue } r waiting _ _ _ hrun rfl hiq hform hj hk without stored,
      if_neg (by simp [hwait])]
    rfl
  | nop =>
    rw [hop] at hform
    cases hform
    rw [execOp, nopLife, life_issue rfl, issueAs_issued (s := { s with stage := .issue })
      (form := aluForm (.const 0) (.const 0) 0) hiq (readOperands_slots hj hk without stored)]
    rfl

end

/-! ### The first tick of a unit's work stops nothing -/

/-- The run goes on, and `h` stands at the head of the reorder buffer. -/
structure HeadStands (h : RobEntry) (u : State) : Prop where
  running : u.status = .running
  stage : u.stage = .fetch
  rob : ∃ younger, u.rob = h :: younger

section

variable {s u : State} {e : RsEntry} {l : LbEntry} {h g : RobEntry} {i : Instr} {form : IssueForm}

/-- What issues into rs_alu is evaluated there, NOP too (41_alu.md R170, R232). -/
theorem execOp_execute_aluForm {o : Op} {t : Tag} (hs : s.stage = .execute t) (hform : issueTableOp o = some form)
    (hpool : form.pool = .alu) : ∃ f, execOp o s = .next (aluEvaluate f t s) := by
  cases o with
  | nop => exact ⟨_, life_execute hs _ _ _ _ _⟩
  | ins i =>
    refine exec_execute_alu hs ?_
    cases i <;> cases hform <;> cases hpool <;> simp [kindOf]

theorem AluOnly.executeStage_stands (hs : AluOnly s) (halu : s.rsAlu = [e]) (hhead : HeadStands h s)
    (hform : issueTableOp e.ins.op = some form) (hpool : form.pool = .alu) :
    ∃ u, executeStage s = .next u ∧ HeadStands h u := by
  obtain ⟨f, hf⟩ := execOp_execute_aluForm (s := { s with stage := .execute e.dest }) rfl hform hpool
  have work : aluStep s = .next (aluEvaluate f e.dest s) := by
    rw [aluStep, halu]
    exact runEntries_single (execAt_execOp hf hs.stage)
  exact ⟨_, executeStage_of_aluStep work ⟨hs.running, hs.stage, hs.rsMd, hs.rsAgu, hs.lb⟩,
    hhead.running, hhead.stage, hhead.rob⟩

/-- A division takes more than one tick, so the first one neither divides nor faults; a product never faults (R8, R250). -/
theorem exec_md_starts {t : Tag} (hs : s.stage = .execute t) (hmd : s.rsMd = [e]) (hready : Eligible t e)
    (hfresh : e.progress = 0) (hkind : kindOf i = .mul ∨ kindOf i = .div) (hwf : s.cfg.wf) :
    ∃ e', exec i s = .next { s with rsMd := [e'] } := by
  obtain ⟨hmul, hdiv, _⟩ := hwf
  obtain ⟨htag, hj, hk⟩ := hready
  have first : FirstWhere (fun x => x.dest = t) s.rsMd [] e [] := firstWhere_singleton hmd htag
  by_cases hless : e.progress + 1 < latency s.cfg (.ins i)
  · exact ⟨_, exec_md_counts hs first hj hk hkind hless⟩
  · rcases hkind with hkind | hkind
    · rw [latency_mul _ hkind] at hless
      obtain ⟨v, hv⟩ := mulTable_of_kind hkind e.vj e.vk
      exact ⟨_, exec_md_finishes hs first hj hk (by rw [latency_mul _ hkind]; omega) (.inl hv)⟩
    · rw [latency_div _ hkind] at hless
      omega

theorem MdOnly.executeStage_stands (hs : MdOnly s) (hmd : s.rsMd = [e]) (hhead : HeadStands h s)
    (hready : Eligible e.dest e) (hfresh : e.progress = 0) (hop : e.ins.op = .ins i)
    (hkind : kindOf i = .mul ∨ kindOf i = .div) (hwf : s.cfg.wf) :
    ∃ u, executeStage s = .next u ∧ HeadStands h u := by
  obtain ⟨e', starts⟩ :=
    exec_md_starts (s := { s with stage := .execute e.dest }) rfl hmd hready hfresh hkind hwf
  exact ⟨_, hs.executeStage_exec (u := { s with rsMd := [e'] }) hmd hop starts hs.stage hs.rsAgu hs.lb,
    hhead.running, hhead.stage, hhead.rob⟩

/-- The first tick in the load buffer, behind an entry that is no store: the scan passes it by, and the read comes later
(43_load_store_amo.md R273, R278). -/
theorem lbStep_starts (hs : s.stage = .fetch) (hlb : s.lb = [l]) (hop : l.ins.op = .ins i)
    (hkind : kindOf i = .load ∨ kindOf i = .amo) (huncleared : l.cleared = false)
    (hless : l.progress + 1 < s.cfg.cacheLat) (hrob : s.rob = [h, g]) (hstore : storeWidth h.ins.op = none)
    (howner : g.tag = l.owner) (htag : h.tag ≠ l.owner) :
    lbStep s = .next { s with lb := [(clearedEntry l none).counted] } := by
  obtain ⟨w, hi⟩ := buffered_of_kind hkind
  refine lbStep_exec hlb hop ?_ hs
  rw [scanFindsNoStore i { s with stage := .load l.owner } l.owner [] [] l [h] [] g hkind rfl
    (firstWhere_singleton hlb rfl) (Nat.lt_of_succ_lt hless) huncleared ⟨hrob, howner, by simpa using htag⟩
    (by simp [Passed, hstore])]
  exact exec_cleared_counts (s := { s with stage := .load l.owner, lb := [clearedEntry l none] })
    (l := clearedEntry l none) hi rfl (firstWhere_singleton rfl rfl) rfl hless

/-- Two entries in the reorder buffer, the second of which is the owner of the only entry of rs_agu. -/
structure AguBehind (s : State) (h g : RobEntry) (e : RsEntry) (i : Instr) : Prop where
  only : MemoryOnly s
  rsAgu : s.rsAgu = [e]
  lb : s.lb = []
  rob : s.rob = [h, g]
  ready : Eligible e.dest e
  fresh : e.progress = 0
  op : e.ins.op = .ins i
  owner : g.tag = e.dest
  distinct : h.tag ≠ e.dest

theorem AguBehind.first (hs : AguBehind s h g e i) :
    FirstWhere (fun x => Eligible e.dest x ∧ x.progress = 0) s.rsAgu [] e [] :=
  firstWhere_singleton hs.rsAgu ⟨hs.ready, hs.fresh⟩

theorem AguBehind.owned (hs : AguBehind s h g e i) : Owner s e.dest [h] g [] :=
  ⟨hs.rob, hs.owner, by simpa using hs.distinct⟩

/-- Address generation for what goes on to the load buffer (43_load_store_amo.md R261, R263). -/
theorem AguBehind.buffers (hs : AguBehind s h g e i) (hkind : kindOf i = .load ∨ kindOf i = .amo) :
    ∃ src g', aguStep s = .next { s with rsAgu := [], lb := [newLbEntry e src], rob := [h, g'] } ∧ g'.tag = e.dest := by
  rcases hkind with hkind | hkind
  · refine ⟨0, g, ?_, hs.owner⟩
    rw [aguStep_load hs.only.stage hs.rsAgu hs.ready hs.fresh hs.op hkind hs.lb, ← hs.rob]
  · refine ⟨e.vk, { g with addr := effectiveAddress e, addrReady := true }, aguStep_exec hs.rsAgu hs.op ?_ hs.only.stage,
      hs.owner⟩
    rw [exec_execute_amo rfl hkind, aguAmo_owner (s := { s with stage := .execute e.dest }) hs.first hs.owned]
    simp only [hs.lb]
    rfl

/-- Address generation for a store or an LR.W, which have no load-buffer entry (R262, R264). -/
theorem AguBehind.addresses (hs : AguBehind s h g e i)
    (hkind : kindOf i = .loadReserved ∨ ∃ w, kindOf i = .store w) :
    ∃ agu g', aguStep s = .next { s with rsAgu := agu, rob := [h, g'] } := by
  rcases hkind with hkind | ⟨w, hkind⟩
  · refine ⟨[{ e with result := 0, progress := 1 }], { g with addr := effectiveAddress e, addrReady := true },
      aguStep_exec hs.rsAgu hs.op ?_ hs.only.stage⟩
    rw [exec_execute_loadReserved rfl hkind,
      aguLoadReserved_owner (s := { s with stage := .execute e.dest }) hs.first hs.owned]
    rfl
  · exact ⟨_, _, aguStep_store hs.only.stage hs.rsAgu hs.ready hs.fresh hs.op hkind hs.owned⟩

/-- The address-generation step and the load buffer's first tick, whichever the kind. -/
theorem AguBehind.executeStage_stands (hs : AguBehind s h g e i)
    (hkind : (kindOf i = .load ∨ kindOf i = .loadReserved) ∨ ∃ w, storeWidth (.ins i) = some w)
    (hlat : 2 ≤ s.cfg.cacheLat) (hstore : storeWidth h.ins.op = none) :
    ∃ u, executeStage s = .next u ∧ HeadStands h u := by
  have kinds : (kindOf i = .load ∨ kindOf i = .amo) ∨ kindOf i = .loadReserved ∨ ∃ w, kindOf i = .store w := by
    rcases hkind with (hkind | hkind) | ⟨w, hw⟩
    · exact .inl (.inl hkind)
    · exact .inr (.inl hkind)
    · cases hk : kindOf i <;> simp [storeWidth, opKind, hk] at hw ⊢
  rcases kinds with hkind | hkind
  · obtain ⟨src, g', generated, howner⟩ := hs.buffers hkind
    have reads := lbStep_starts (s := { s with rsAgu := [], lb := [newLbEntry e src], rob := [h, g'] })
      (l := newLbEntry e src) hs.only.stage rfl hs.op hkind rfl hlat rfl hstore howner hs.distinct
    exact ⟨_, executeStage_memory hs.only generated hs.only.running reads, hs.only.running, hs.only.stage, _, rfl⟩
  · obtain ⟨agu, g', generated⟩ := hs.addresses hkind
    exact ⟨_, executeStage_memory hs.only generated hs.only.running (lbStep_empty hs.lb), hs.only.running,
      hs.only.stage, _, rfl⟩

end

/-! ### One record behind the head -/

/-- A state between two stages whose only entry is `h`, no store-class one, and whose pools and load buffer are empty. -/
structure HeadOnly (s : State) (h : RobEntry) : Prop where
  running : s.status = .running
  stage : s.stage = .fetch
  rsAlu : s.rsAlu = []
  rsMd : s.rsMd = []
  rsAgu : s.rsAgu = []
  lb : s.lb = []
  rob : s.rob = [h]
  noStore : storeWidth h.ins.op = none
  tag : h.tag ≠ s.nextTag

/-- Whatever record issued behind such a head, the execute stage of the next tick goes on and leaves the head alone. -/
theorem HeadOnly.executeStage_stands {s : State} {h : RobEntry} {form : IssueForm} {r : Decoded}
    {waiting : List Decoded} (hs : HeadOnly s h) (hwf : s.cfg.wf) (hlat : 2 ≤ s.cfg.cacheLat)
    (hform : issueTableOp r.op = some form) :
    ∃ u, executeStage (issuedFree form r waiting s) = .next u ∧ HeadStands h u := by
  have entries : (issuedFree form r waiting s).rob = [h, entryFree form r s] := by simp [hs.rob]
  have stands : HeadStands h (issuedFree form r waiting s) := ⟨hs.running, hs.stage, _, entries⟩
  have ins (hpool : form.pool ≠ .alu) : ∃ i, r.op = .ins i ∧ issueTable i = some form := by
    cases hop : r.op with
    | ins i => exact ⟨i, rfl, by rwa [hop] at hform⟩
    | nop =>
      rw [hop] at hform
      cases hform
      exact absurd rfl hpool
  cases hpool : form.pool with
  | alu =>
    have only : AluOnly (issuedFree form r waiting s) :=
      ⟨hs.running, hs.stage, by simp [hpool, hs.rsMd], by simp [hpool, hs.rsAgu], hs.lb⟩
    exact only.executeStage_stands (e := stationFree form r s) (by simp [hpool, hs.rsAlu]) stands hform hpool
  | md =>
    obtain ⟨i, hop, htable⟩ := ins (by simp [hpool])
    have only : MdOnly (issuedFree form r waiting s) :=
      ⟨hs.running, hs.stage, by simp [hpool, hs.rsAlu], by simp [hpool, hs.rsAgu], hs.lb⟩
    exact only.executeStage_stands (e := stationFree form r s) (by simp [hpool, hs.rsMd]) stands ⟨rfl, rfl, rfl⟩ rfl hop
      (kindOf_of_mdForm htable hpool) hwf
  | agu =>
    obtain ⟨i, hop, htable⟩ := ins (by simp [hpool])
    have only : MemoryOnly (issuedFree form r waiting s) :=
      ⟨hs.running, hs.stage, by simp [hpool, hs.rsAlu], by simp [hpool, hs.rsMd]⟩
    have behind : AguBehind (issuedFree form r waiting s) h (entryFree form r s) (stationFree form r s) i :=
      ⟨only, by simp [hpool, hs.rsAgu], hs.lb, entries, ⟨rfl, rfl, rfl⟩, rfl, hop, rfl, hs.tag⟩
    exact behind.executeStage_stands (kindOf_of_aguForm htable hpool) hlat hs.noStore

/-! ### The broadcast and the commit of the branch -/

section

variable {s u : State} {h : RobEntry} {younger : List RobEntry}

/-- No latency of the MULDIV unit is 0 (00_scope.md R8). -/
theorem latency_pos {c : Config} (hwf : c.wf) (o : Op) : 0 < latency c o := by
  obtain ⟨hmul, hdiv, _⟩ := hwf
  unfold latency
  split <;> omega

/-- Only rs_alu has results where the other pools have not begun and the load buffer is empty (45_cdb.md R350). -/
theorem harvestSet_alu (hwf : s.cfg.wf) (hmd : ∀ e ∈ s.rsMd, e.progress = 0) (hagu : ∀ e ∈ s.rsAgu, e.progress = 0)
    (hlb : s.lb = []) : harvestSet s = (s.rsAlu.filter aluDone).map fun e => ⟨.alu, e.dest, e.result⟩ := by
  have md : s.rsMd.filter (mdDone s.cfg) = [] :=
    List.filter_eq_nil_iff.2 fun e he => by simpa [mdDone, hmd e he] using Nat.ne_of_gt (latency_pos hwf e.ins.op)
  have agu : s.rsAgu.filter aguDone = [] := List.filter_eq_nil_iff.2 fun e he => by simp [aguDone, hagu e he]
  simp [harvestSet, md, agu, hlb]

/-- The broadcast of one result whose owner has no destination: the owner is marked, and no message is sent (45_cdb.md
R352, R353). -/
theorem broadcastStage_no_message {x : Harvested} (hu : u.status = .running) (hs : harvestSet s = [x])
    (hremoved : removeHarvested x s = u) (howner : robAt u x.tag = some h) (hdest : h.dest = 0) :
    broadcastStage s = .next (updateRob x.tag (markEntry x.value) u) := by
  have harvested : harvestAll (harvestSet s) s [] = (updateRob x.tag (markEntry x.value) u, []) := by
    rw [hs, harvestAll, hremoved, howner]
    simp [messageOf, hdest, harvestAll]
  rw [broadcastStage, harvested]
  exact if_pos hu

/-- The predictor's update asks for its state and the parameters only (44_branch_fetch.md R330). -/
theorem updatedPred_congr (hpred : u.pred = s.pred) (hcfg : u.cfg = s.cfg) (pc : Word) (taken : Bool) :
    updatedPred u pc taken = updatedPred s pc taken := by
  rw [updatedPred, updatedPred, hpred, hcfg]

/-- A mispredicted branch at the head redirects pc and squashes (46_commit.md R374, R379, R383). -/
theorem commitStage_branch_wrong {i : Instr} {x : Reg → Word} {taken : Bool} {imm : Word} (hs : s.stage = .fetch)
    (hrob : s.rob = h :: younger) (hop : h.ins.op = .ins i) (hshape : branchShape i x = some (taken, imm))
    (hc : h.complete = true) (hresult : h.result = bit taken) (hpred : h.ins.pred ≠ taken) :
    commitStage s = .next (squashed { s with
      pred := updatedPred s h.ins.pc taken, pc := if taken then h.ins.pc + imm else h.ins.pc + 4 }) := by
  have outcome : (h.result == 1) = taken := (congrArg (· == 1) hresult).trans (bit_beq_one taken)
  refine commitStage_exec hrob hop ?_ hs
  rw [exec_commit_branch rfl hshape, commitBranch_wrong (s := { s with stage := .commit }) imm hrob hc
    (fun he => hpred (he.symm.trans outcome)), outcome]
  rfl

end

/-! ### The pair -/

/-- A mispredicted branch and the record behind it. -/
structure WrongBranch where
  branch : AluRecord
  ins : Instr
  taken : Bool
  imm : Word
  follower : Decoded
  form : IssueForm

/-- The pair is about to issue in a quiet core. -/
structure WrongBranch.Meets (p : WrongBranch) (s : State) : Prop where
  quiet : Quiet s
  wf : s.cfg.wf
  latency : 2 ≤ s.cfg.cacheLat
  iq : s.iq = [p.branch.record, p.follower]
  op : p.branch.record.op = .ins p.ins
  shape : branchShape p.ins (readReg s) = some (p.taken, p.imm)
  pred : p.branch.record.pred ≠ p.taken
  branchForm : issueTableOp p.branch.record.op = some p.branch.form
  dest : p.branch.form.dest = 0
  value : aluTableOp p.branch.record.op (operandValue (readReg s) p.branch.record.pc p.branch.form.j)
    (operandValue (readReg s) p.branch.record.pc p.branch.form.k) p.branch.record.pc = some p.branch.result
  result : p.branch.result = bit p.taken
  followerForm : issueTableOp p.follower.op = some p.form

section

variable (p : WrongBranch) (s : State)

/-- After the first tick: the branch has issued. -/
def WrongBranch.branchIssued : State := { p.branch.atIssue s with iq := [p.follower] }

/-- After the second: the branch is evaluated and the follower has issued. -/
def WrongBranch.followerIssued : State := issuedFree p.form p.follower [] (p.branch.evaluated s)

/-- The branch's reorder-buffer entry once its outcome is known. -/
def WrongBranch.resolved : RobEntry := { p.branch.entry s with complete := true, result := p.branch.result }

/-- The core within the third tick, the outcome known, as it would be without the follower. -/
def WrongBranch.harvested : State :=
  { p.branch.atIssue s with cycle := s.cycle + 2, rsAlu := [], rob := [p.resolved s] }

end

namespace WrongBranch.Meets

variable {p : WrongBranch} {s u : State}

theorem only (hp : p.Meets s) (hstatus : u.status = s.status) (hstage : u.stage = s.stage) (hmd : u.rsMd = s.rsMd)
    (hagu : u.rsAgu = s.rsAgu) (hlb : u.lb = s.lb) : AluOnly u := by
  obtain ⟨hr, hst, _, _, hm, ha, hl, _⟩ := hp.quiet
  exact ⟨hstatus.trans hr, hstage.trans hst, hmd.trans hm, hagu.trans ha, hlb.trans hl⟩

/-- A branch claims no register, so the follower reads every operand at once. -/
theorem rst (hp : p.Meets s) : (p.branch.atIssue s).rst = clearAll := by
  obtain ⟨_, _, _, _, _, _, _, hrst, _⟩ := hp.quiet
  simp [AluRecord.atIssue, rstClaimed, hp.dest, hrst]

/-- The first tick: the branch issues. -/
theorem first_tick (hp : p.Meets s) (n : Nat) : backTicks (n + 1) s = backTicks n (p.branchIssued s) := by
  obtain ⟨hrun, hstage, hrob, halu, hmd, hagu, hlb, hrst, hwait, _⟩ := hp.quiet
  obtain ⟨hpool, hdata⟩ := aluTableOp_form hp.value hp.branchForm
  have hm : MemoryOnly s := ⟨hrun, hstage, halu, hmd⟩
  rw [backTicks_succ n (commitStage_empty hrob) hrun (hm.broadcastStage_silent (by simp [hagu]) (by simp [hlb])) hrun
    (executeStage_memory hm (aguStep_empty hagu) hrun (lbStep_empty hlb)) hrun
    (issueStage_free hrun hstage hwait hrst hp.iq hp.branchForm) hrun]
  simp only [issuedFree, issued, hpool, hdata, hrob, halu]
  rfl

/-- The branch waits at the head until its result is broadcast. -/
theorem commit_waits (hp : p.Meets s) (hstage : u.stage = s.stage) {younger : List RobEntry}
    (hrob : u.rob = p.branch.entry s :: younger) : commitStage u = .next u := by
  obtain ⟨_, hst, _⟩ := hp.quiet
  obtain ⟨_, hdata⟩ := aluTableOp_form hp.value hp.branchForm
  exact commitStage_alu_waits (hstage.trans hst) hrob hp.value rfl (by simp [AluRecord.entry, newRobEntry, hdata])

/-- The second tick: the ALU evaluates the branch, and the follower issues. -/
theorem second_tick (hp : p.Meets s) (n : Nat) :
    backTicks (n + 1) (p.branchIssued s) = backTicks n (p.followerIssued s) := by
  obtain ⟨_, _, _, _, _, _, _, _, hwait, _⟩ := hp.quiet
  have only : AluOnly (p.branchIssued s) := hp.only rfl rfl rfl rfl rfl
  have silent : harvestSet (p.branchIssued s) = [] :=
    only.harvestSet_nil (by simp [branchIssued, AluRecord.atIssue, AluRecord.station, newRsEntry])
  have evaluated := only.executeStage_evaluates rfl ⟨rfl, rfl, rfl⟩ rfl hp.value
  have waits : commitStage (p.branchIssued s) = .next (p.branchIssued s) := hp.commit_waits rfl rfl
  exact backTicks_succ n waits only.running (broadcastStage_idle only.running silent) only.running
    evaluated only.running
    (issueStage_free only.running only.stage hwait hp.rst rfl hp.followerForm) only.running

/-- The branch's entry of rs_alu stands in front of whatever the follower has there. -/
theorem followerIssued_rsAlu (p : WrongBranch) (s : State) : (p.followerIssued s).rsAlu =
    { p.branch.station s with result := p.branch.result, progress := 1 } ::
      (issuedFree p.form p.follower [] (p.harvested s)).rsAlu := by
  rw [followerIssued, issuedFree_rsAlu, issuedFree_rsAlu]
  split <;> rfl

/-- The harvest of the third tick is the branch's outcome: the follower has not begun. -/
theorem harvestSet_outcome (hp : p.Meets s) :
    harvestSet (p.followerIssued s) = [⟨.alu, s.nextTag, p.branch.result⟩] := by
  obtain ⟨_, _, _, _, hmd, hagu, hlb, _⟩ := hp.quiet
  have quietMd : (p.branch.evaluated s).rsMd = [] := hmd
  have quietAgu : (p.branch.evaluated s).rsAgu = [] := hagu
  have freshMd : ∀ e ∈ (p.followerIssued s).rsMd, e.progress = 0 := by
    intro e he
    obtain ⟨_, rfl⟩ : p.form.pool = .md ∧ e = stationFree p.form p.follower (p.branch.evaluated s) := by
      simpa [followerIssued, quietMd] using he
    rfl
  have freshAgu : ∀ e ∈ (p.followerIssued s).rsAgu, e.progress = 0 := by
    intro e he
    obtain ⟨_, rfl⟩ : p.form.pool = .agu ∧ e = stationFree p.form p.follower (p.branch.evaluated s) := by
      simpa [followerIssued, quietAgu] using he
    rfl
  have unbegun : (issuedFree p.form p.follower [] (p.harvested s)).rsAlu.filter aluDone = [] := by
    rw [issuedFree_rsAlu]
    split <;> rfl
  have finished : aluDone { p.branch.station s with result := p.branch.result, progress := 1 } = true := rfl
  rw [harvestSet_alu (s := p.followerIssued s) hp.wf freshMd freshAgu hlb, followerIssued_rsAlu,
    List.filter_cons_of_pos finished, unbegun]
  rfl

/-- The broadcast of the third tick: the branch's entry has the outcome, and no message reaches the follower. -/
theorem outcome_broadcast (hp : p.Meets s) :
    broadcastStage (p.followerIssued s) = .next (issuedFree p.form p.follower [] (p.harvested s)) := by
  obtain ⟨hrun, _⟩ := hp.quiet
  have removed : removeHarvested ⟨.alu, s.nextTag, p.branch.result⟩ (p.followerIssued s) =
      issuedFree p.form p.follower [] { p.branch.evaluated s with rsAlu := [] } := by
    rw [removeHarvested]
    dsimp only
    rw [followerIssued_rsAlu, List.eraseP_cons_of_pos (by simp [AluRecord.station, newRsEntry, aluDone])]
    rfl
  have nosyscall : isSyscall (p.branch.entry s).ins.op = false :=
    (congrArg isSyscall hp.op).trans (isSyscall_of_kind (by simp [(branchShape_tables 0 hp.shape).1]))
  have marked : markEntry p.branch.result (p.branch.entry s) = p.resolved s := by
    simp [markEntry, nosyscall, resolved]
  have owned : Owner (issuedFree p.form p.follower [] { p.branch.evaluated s with rsAlu := [] }) s.nextTag []
      (p.branch.entry s) [entryFree p.form p.follower (p.branch.evaluated s)] := ⟨rfl, rfl, by simp⟩
  rw [broadcastStage_no_message (u := issuedFree p.form p.follower [] { p.branch.evaluated s with rsAlu := [] }) hrun
    hp.harvestSet_outcome removed (robAt_owner owned) hp.dest, updateRob_owner _ owned, marked]
  rfl

/-- The third tick: the outcome is broadcast, and the follower is at work behind it. -/
theorem third_tick (hp : p.Meets s) (n : Nat) :
    ∃ u, backTicks (n + 1) (p.followerIssued s) = backTicks n { u with cycle := u.cycle + 1 } ∧
      HeadStands (p.resolved s) u ∧ BackendOnly (issuedFree p.form p.follower [] (p.harvested s)) u := by
  obtain ⟨hrun, hstage, _, _, hmd, hagu, hlb, _⟩ := hp.quiet
  obtain ⟨hbranch, _⟩ := branchShape_tables p.branch.record.pc hp.shape
  have head : HeadOnly (p.harvested s) (p.resolved s) :=
    ⟨hrun, hstage, rfl, hmd, hagu, hlb, rfl, by
      rw [show (p.resolved s).ins.op = .ins p.ins from hp.op]
      simp [storeWidth, opKind, hbranch], Nat.ne_of_lt (Nat.lt_succ_self s.nextTag)⟩
  obtain ⟨u, executed, stands⟩ :=
    head.executeStage_stands (waiting := []) hp.wf hp.latency hp.followerForm
  have running : (issuedFree p.form p.follower [] (p.harvested s)).status = .running := hrun
  have frame := executeStage_backendOnly running executed
  have waits : commitStage (p.followerIssued s) = .next (p.followerIssued s) := hp.commit_waits rfl rfl
  exact ⟨u, backTicks_succ n waits hrun hp.outcome_broadcast running executed stands.running (issueStage_empty frame.iq)
    stands.running, stands, frame⟩

/-- The fourth tick: the branch at the head squashes, and nothing is left of the follower. -/
theorem fourth_tick (hp : p.Meets s) (hu : HeadStands (p.resolved s) u)
    (hframe : BackendOnly (issuedFree p.form p.follower [] (p.harvested s)) u) :
    backTicks 1 { u with cycle := u.cycle + 1 } = .next { s with
      iq := [], nextTag := s.nextTag + 2, cycle := s.cycle + 4, pred := updatedPred s p.branch.record.pc p.taken
      pc := if p.taken then p.branch.record.pc + p.imm else p.branch.record.pc + 4 } := by
  obtain ⟨younger, hrob⟩ := hu.rob
  obtain ⟨hregs, hmem, _, _, _, _, htag, hcycle, hpred, hcfg, _⟩ := hframe
  obtain ⟨hrun, hstage, hempty, halu, hmd, hagu, hlb, hrst, hwait, _⟩ := hp.quiet
  have squashes := commitStage_branch_wrong (s := { u with cycle := u.cycle + 1 }) hu.stage hrob hp.op hp.shape rfl
    hp.result hp.pred
  rw [backTicks_last squashes ⟨hu.running, hu.stage, rfl, rfl⟩ rfl rfl rfl]
  have learnt : updatedPred { u with cycle := u.cycle + 1 } (p.resolved s).ins.pc p.taken =
      updatedPred s p.branch.record.pc p.taken := updatedPred_congr hpred hcfg _ _
  rw [learnt]
  simp only [squashed, hregs, hmem, htag, hcycle, hcfg, hu.running, hu.stage, hrun, hstage, hempty, halu, hmd, hagu, hlb,
    hrst, hwait]
  rfl

end WrongBranch.Meets

/-- Settles O58: two issues, the branch's outcome, and its commit, which squashes what the follower has done. -/
theorem squashErasesYounger : Obligations.SquashErasesYounger := by
  intro s r1 r2 i1 i2 taken imm hquiet hwf hlat hiq hop hshape hpred hfollower
  obtain ⟨_, form, hform, hdest, hvalue⟩ := branchShape_tables r1.pc hshape
  obtain ⟨form2, hform2⟩ : ∃ form, issueTableOp r2.op = some form := by
    rcases hfollower with hnop | ⟨hins, hexecuted⟩
    · exact ⟨_, congrArg issueTableOp hnop⟩
    · rw [hins]
      exact Option.ne_none_iff_exists'.mp hexecuted
  have hp : WrongBranch.Meets ⟨⟨r1, form, bit taken⟩, i1, taken, imm, r2, form2⟩ s :=
    ⟨hquiet, hwf, hlat, hiq, hop, hshape, hpred, (congrArg issueTableOp hop).trans hform, hdest, hop ▸ hvalue, rfl,
      hform2⟩
  obtain ⟨u, third, stands, frame⟩ := hp.third_tick 1
  rw [hp.first_tick, hp.second_tick, third, hp.fourth_tick stands frame]

end Sys2Proof.Machine
end

section
/-! PROOFS. The exceptions: the fault of the disambiguation scan (43_load_store_amo.md R277; 60_exceptions.md R408). -/

namespace Sys2Proof.Machine

/-- A match that is ready but narrower than the load is answered by the fault, where FWD_WIDER = fault. -/
theorem scanOlder_narrow_faults {c : Config} {l : LbEntry} {wl ws : Width} {h : RobEntry} (rest : List RobEntry)
    (hws : storeWidth h.ins.op = some ws) (haddr : h.addrReady = true) (hsame : h.addr = l.addr)
    (hvalue : h.valueReady = true) (hnarrow : widthBytes ws < widthBytes wl) (hfault : c.fwdWider = .fault) :
    scanOlder c l wl (h :: rest) = .fault (.unmodelledForward l.ins.pc l.addr) := by
  have found : forwardFrom c l wl ws h = .fault (.unmodelledForward l.ins.pc l.addr) := by
    rw [forwardFrom, if_neg (Nat.not_le.mpr hnarrow), hfault]
  rw [scanOlder, hws]
  simp [haddr, hsame, hvalue, found]

/-- The load-buffer step whose scan answers a fault raises it, and changes nothing else. -/
theorem exec_scan_faults {i : Instr} {w : Width} {s : State} {t : Tag} {before after : List LbEntry} {l : LbEntry}
    {f : Fault} (hi : Buffered i w) (hs : s.stage = .load t) (hfirst : FirstWhere (Working s t) s.lb before l after)
    (huncleared : l.cleared = false) (hscan : disambiguate s l w = .fault f) :
    exec i s = .next (raise f s) := by
  rw [exec_load_buffered hs hi, lbAdvance_split w _ hfirst, if_neg (by simp [huncleared]), hscan]

/-- Settles O39: the scan's answer is the fault, which the step raises before it counts a tick. -/
theorem narrowStoreFaults : Obligations.NarrowStoreFaults := by
  intro i wl ws s t before after l first second younger g h hi hstage hfirst huncleared ho hpass hws haddr hsame hvalue
    hnarrow hfault
  obtain ⟨rfl, _⟩ := hfirst.2.1
  exact exec_scan_faults hi hstage hfirst huncleared
    ((disambiguate_at ho hpass).trans (scanOlder_narrow_faults _ hws haddr hsame hvalue hnarrow hfault))

end Sys2Proof.Machine
end

section
/-! PROOFS. The start of a run (70_reset_and_hazards.md R431; 10_state.md R45). -/

namespace Sys2Proof.Machine

theorem launch_regs (cfg : Config) (entry : Word) (regs : RegFile) (mem : Memory) {k : Nat} (h : 1 ≤ k ∧ k < 32) :
    (State.launch cfg entry regs mem).regs[k]'h.2 = regs[k]'h.2 :=
  Vector.getElem_set_ne (by omega) h.2 (by omega)

theorem launch_rstAt (cfg : Config) (entry : Word) (regs : RegFile) (mem : Memory) (r : Reg) :
    rstAt (State.launch cfg entry regs mem) r = ⟨false, 0⟩ := by
  simp [rstAt, State.launch]

theorem launch_quiet (cfg : Config) (entry : Word) (regs : RegFile) (mem : Memory) :
    Quiet (State.launch cfg entry regs mem) :=
  ⟨rfl, rfl, rfl, rfl, rfl, rfl, rfl, rfl, rfl, Nat.le_refl 1⟩

/-- Settles O15: the fields of the launched state, and the invariants, which hold where nothing is in flight. -/
theorem launchMeetsInvariants : Obligations.LaunchMeetsInvariants := by
  rintro cfg entry regs mem _ rfl
  have fields := launch_rstAt cfg entry regs mem
  have zero := launch_zeroRegister cfg entry regs mem
  have order := (launch_tickStart cfg entry regs mem).inFlight.order
  exact ⟨⟨rfl, zero.1, fun _ => launch_regs cfg entry regs mem, rfl, fields, rfl, rfl, rfl, rfl, rfl, rfl, rfl, rfl, rfl,
    rfl, rfl⟩, rfl, zero, order, launch_quiet cfg entry regs mem, id⟩

end Sys2Proof.Machine
end

section
/-! PROOFS. Two ALU-pool instructions back to back, tick by tick: the second waits for the first's message where it reads
what the first writes (70_reset_and_hazards.md R446; 45_cdb.md R359). -/

namespace Sys2Proof.Machine

/-- Two records of the ALU pool, of class other. -/
structure AluPair where
  first : AluRecord
  second : AluRecord

/-- The pair is about to issue in a quiet core; the second's result is that of its operands after the first's write. -/
structure AluPair.Meets (p : AluPair) (s : State) : Prop where
  quiet : Quiet s
  iq : s.iq = [p.first.record, p.second.record]
  firstOther : p.first.record.op = .nop ∨ ∃ i, p.first.record.op = .ins i ∧ kindOf i = .alu
  secondOther : p.second.record.op = .nop ∨ ∃ i, p.second.record.op = .ins i ∧ kindOf i = .alu
  firstForm : issueTableOp p.first.record.op = some p.first.form
  secondForm : issueTableOp p.second.record.op = some p.second.form
  firstResult : aluTableOp p.first.record.op (operandValue (readReg s) p.first.record.pc p.first.form.j)
    (operandValue (readReg s) p.first.record.pc p.first.form.k) p.first.record.pc = some p.first.result
  secondResult : aluTableOp p.second.record.op
    (operandValue (readReg (writeReg p.first.form.dest p.first.result s)) p.second.record.pc p.second.form.j)
    (operandValue (readReg (writeReg p.first.form.dest p.first.result s)) p.second.record.pc p.second.form.k)
    p.second.record.pc = some p.second.result

section

variable (p : AluPair) (s : State)

/-- What an operand of the second record reads at its issue: the first's tag, where it is the first's destination. -/
def AluPair.slot (x : Operand) : Slot :=
  if p.first.form.dest ≠ 0 ∧ x = .reg p.first.form.dest then ⟨0, s.nextTag⟩
  else ⟨operandValue (readReg s) p.second.record.pc x, 0⟩

/-- What it holds once the first's message has come. -/
def AluPair.operand (x : Operand) : Word :=
  operandValue (readReg (writeReg p.first.form.dest p.first.result s)) p.second.record.pc x

/-- The second's reorder-buffer entry. -/
def AluPair.entry : RobEntry := newRobEntry p.second.form p.second.record (s.nextTag + 1) ⟨0, 0⟩

/-- The second's entry of rs_alu as it issues. -/
def AluPair.station : RsEntry :=
  newRsEntry p.second.form p.second.record (s.nextTag + 1) (p.slot s p.second.form.j) (p.slot s p.second.form.k)

/-- The same with both operands resolved. -/
def AluPair.resolved : RsEntry :=
  newRsEntry p.second.form p.second.record (s.nextTag + 1) ⟨p.operand s p.second.form.j, 0⟩
    ⟨p.operand s p.second.form.k, 0⟩

/-- The first's reorder-buffer entry once it is complete. -/
def AluPair.complete : RobEntry := { p.first.entry s with complete := true, result := p.first.result }

/-- After the first tick: the first has issued. -/
def AluPair.firstIssued : State :=
  { s with
    iq := [p.second.record], nextTag := s.nextTag + 1, cycle := s.cycle + 1, rob := [p.first.entry s]
    rsAlu := [p.first.station s], rst := rstClaimed s p.first.form.dest s.nextTag }

/-- Within the second: the first is evaluated. -/
def AluPair.firstEvaluated : State :=
  { s with
    iq := [p.second.record], nextTag := s.nextTag + 1, cycle := s.cycle + 1, rob := [p.first.entry s]
    rsAlu := [{ p.first.station s with result := p.first.result, progress := 1 }]
    rst := rstClaimed s p.first.form.dest s.nextTag }

/-- The core once both have issued, n ticks after the start. -/
def withPair (n : Nat) (regs : RegFile) (rst : Vector RstEntry 32) (rob : List RobEntry) (rsAlu : List RsEntry) :
    State :=
  { s with
    regs := regs, rst := rst, iq := [], rsAlu := rsAlu, rob := rob, nextTag := s.nextTag + 2, cycle := s.cycle + n }

/-- Both claims. -/
def AluPair.claims : Vector RstEntry 32 := rstClaimed (p.firstIssued s) p.second.form.dest (s.nextTag + 1)

/-- After the second: the second has issued. -/
def AluPair.bothIssued : State :=
  withPair s 2 s.regs (p.claims s) [p.first.entry s, p.entry s]
    [{ p.first.station s with result := p.first.result, progress := 1 }, p.station s]

/-- Within the third: the first is complete, and the second has its operands. -/
def AluPair.firstHarvested : State := withPair s 2 s.regs (p.claims s) [p.complete s, p.entry s] [p.resolved s]

/-- After the third: the second is evaluated. -/
def AluPair.secondEvaluated : State :=
  withPair s 3 s.regs (p.claims s) [p.complete s, p.entry s]
    [{ p.resolved s with result := p.second.result, progress := 1 }]

/-- Within the fourth: the first has retired. -/
def AluPair.firstRetired : State :=
  withPair s 3 (regsWith s p.first.form.dest p.first.result) (rstClaimed s p.second.form.dest (s.nextTag + 1)) [p.entry s]
    [{ p.resolved s with result := p.second.result, progress := 1 }]

/-- After the fourth: the second is complete. -/
def AluPair.secondHarvested : State :=
  withPair s 4 (regsWith s p.first.form.dest p.first.result) (rstClaimed s p.second.form.dest (s.nextTag + 1))
    [markEntry p.second.result (p.entry s)] []

end

/-- The release of the first claim leaves the second claim, of the same register or of another. -/
theorem rstReleased_first_of_two {s u v : State} {r d : Reg} {t q : Tag} (hs : s.rst = clearAll)
    (hu : u.rst = rstClaimed s r t) (hv : v.rst = rstClaimed u d q) (hne : q ≠ t) :
    rstReleased v r t = rstClaimed s d q := by
  by_cases hd : d = 0
  · rw [rstClaimed, if_pos hd, hs]
    exact rstReleased_of_claimed hs (by rw [hv, rstClaimed, if_pos hd, hu]) rfl
  by_cases hr : r = 0
  · rw [rstReleased, if_neg fun h => h.1 hr, hv, rstClaimed, rstClaimed, if_neg hd, if_neg hd, hu, rstClaimed, if_pos hr]
  have claims : v.rst = (clearAll.set r.toNat ⟨true, t⟩ r.isLt).set d.toNat ⟨true, q⟩ d.isLt := by
    rw [hv, rstClaimed, if_neg hd, hu, rstClaimed, if_neg hr, hs]
  have alone : rstClaimed s d q = clearAll.set d.toNat ⟨true, q⟩ d.isLt := by rw [rstClaimed, if_neg hd, hs]
  rw [alone]
  by_cases hdr : d.toNat = r.toNat
  · have kept : ¬ (r ≠ 0 ∧ v.rst[r.toNat]'r.isLt = ⟨true, t⟩) := by simp [claims, hdr, hne]
    rw [rstReleased, if_neg kept, claims]
    apply Vector.ext
    intro k hk
    by_cases hkd : d.toNat = k
    · simp [hkd]
    · simp [hkd, show r.toNat ≠ k from hdr ▸ hkd]
  · have left : r ≠ 0 ∧ v.rst[r.toNat]'r.isLt = ⟨true, t⟩ := ⟨hr, by simp [claims, hdr]⟩
    rw [rstReleased, if_pos left, claims]
    apply Vector.ext
    intro k hk
    by_cases hkr : r.toNat = k
    · simp [hkr, show d.toNat ≠ k from hkr ▸ hdr, clearAll, freeEntry]
    · by_cases hkd : d.toNat = k
      · simp [hkd, hkr]
      · simp [hkd, hkr]

namespace AluPair.Meets

variable {p : AluPair} {s u : State}

theorem only (hp : p.Meets s) (hstatus : u.status = s.status) (hstage : u.stage = s.stage) (hmd : u.rsMd = s.rsMd)
    (hagu : u.rsAgu = s.rsAgu) (hlb : u.lb = s.lb) : AluOnly u := by
  obtain ⟨hr, hst, _, _, hm, ha, hl, _⟩ := hp.quiet
  exact ⟨hstatus.trans hr, hstage.trans hst, hmd.trans hm, hagu.trans ha, hlb.trans hl⟩

/-- The first tick: the first record issues. -/
theorem first_tick (hp : p.Meets s) (n : Nat) : backTicks (n + 1) s = backTicks n (p.firstIssued s) := by
  obtain ⟨hrun, hstage, hrob, halu, hmd, hagu, hlb, hrst, hwait, _⟩ := hp.quiet
  obtain ⟨hpool, hdata⟩ := aluTableOp_form hp.firstResult hp.firstForm
  have hm : MemoryOnly s := ⟨hrun, hstage, halu, hmd⟩
  rw [backTicks_succ n (commitStage_empty hrob) hrun (hm.broadcastStage_silent (by simp [hagu]) (by simp [hlb])) hrun
    (executeStage_memory hm (aguStep_empty hagu) hrun (lbStep_empty hlb)) hrun
    (issueStage_free hrun hstage hwait hrst hp.iq hp.firstForm) hrun]
  simp only [issuedFree, issued, hpool, hdata, hrob, halu]
  rfl

/-- The first record waits at the head until it is complete. -/
theorem commit_waits (hp : p.Meets s) (hstage : u.stage = s.stage) {younger : List RobEntry}
    (hrob : u.rob = p.first.entry s :: younger) : commitStage u = .next u := by
  obtain ⟨_, hst, _⟩ := hp.quiet
  obtain ⟨_, hdata⟩ := aluTableOp_form hp.firstResult hp.firstForm
  exact commitStage_alu_waits (hstage.trans hst) hrob hp.firstResult rfl
    (by simp [AluRecord.entry, newRobEntry, hdata])

/-- The rename read of the second record: the first's claim, or the register file. -/
theorem reads_slot (hp : p.Meets s) (x : Operand) :
    readOperand (p.firstEvaluated s) p.second.record.pc x = .slot (p.slot s x) := by
  obtain ⟨_, _, _, _, _, _, _, hrst, _, _⟩ := hp.quiet
  have free (h : ¬ (p.first.form.dest ≠ 0 ∧ x = .reg p.first.form.dest)) :
      p.slot s x = ⟨operandValue (readReg s) p.second.record.pc x, 0⟩ := if_neg h
  cases x with
  | const v => rw [free (by simp)]; rfl
  | pc => rw [free (by simp)]; rfl
  | reg r =>
    have claimed : (p.firstEvaluated s).rst = rstClaimed s p.first.form.dest s.nextTag := rfl
    by_cases hr : p.first.form.dest ≠ 0 ∧ r = p.first.form.dest
    · obtain ⟨h0, rfl⟩ := hr
      have busy : rstAt (p.firstEvaluated s) p.first.form.dest = ⟨true, s.nextTag⟩ := by
        simp only [rstAt, claimed, rstClaimed, if_neg h0, Vector.getElem_set_self]
      have owner : robAt (p.firstEvaluated s) (rstAt (p.firstEvaluated s) p.first.form.dest).tag =
          some (p.first.entry s) := by
        rw [busy]
        exact robAt_head (h := p.first.entry s) (younger := []) rfl
      rw [AluPair.slot, if_pos ⟨h0, rfl⟩, readOperand, renameRead_produced h0 (by rw [busy]) owner, busy]
      rfl
    · have idle : r ≠ 0 → (rstAt (p.firstEvaluated s) r).busy = false := by
        intro h0
        rcases rstClaimed_busy (s := s) (r := r) (d := p.first.form.dest) (t := s.nextTag) with ⟨hd, hd0, _⟩ | same
        · exact absurd ⟨hd0, hd⟩ hr
        · rw [show rstAt (p.firstEvaluated s) r = rstAt s r from same]
          simp [rstAt, hrst, clearAll, freeEntry]
      rw [free (by simpa using hr), readOperand]
      by_cases h0 : r = 0
      · subst h0
        rfl
      · rw [renameRead_idle h0 (idle h0), operandValue, readReg, if_neg h0]
        rfl

/-- The second tick: the first record is evaluated, and the second issues. -/
theorem second_tick (hp : p.Meets s) (n : Nat) :
    backTicks (n + 1) (p.firstIssued s) = backTicks n (p.bothIssued s) := by
  obtain ⟨_, _, _, _, _, _, _, _, hwait, _⟩ := hp.quiet
  obtain ⟨hpool, hdata⟩ := aluTableOp_form hp.secondResult hp.secondForm
  have only : AluOnly (p.firstIssued s) := hp.only rfl rfl rfl rfl rfl
  have silent : harvestSet (p.firstIssued s) = [] :=
    only.harvestSet_nil (by simp [firstIssued, AluRecord.station, newRsEntry])
  have evaluated : executeStage (p.firstIssued s) = .next (p.firstEvaluated s) :=
    only.executeStage_evaluates rfl ⟨rfl, rfl, rfl⟩ rfl hp.firstResult
  have done := issueStage_issued (s := p.firstEvaluated s) only.running only.stage hwait rfl hp.secondForm hdata
    (hp.reads_slot p.second.form.j) (hp.reads_slot p.second.form.k)
  have waits : commitStage (p.firstIssued s) = .next (p.firstIssued s) := hp.commit_waits rfl rfl
  rw [backTicks_succ n waits only.running (broadcastStage_idle only.running silent) only.running evaluated only.running
    done only.running]
  simp only [issued, hpool]
  rfl

theorem isSyscall_other {o : Op} (ho : o = .nop ∨ ∃ i, o = .ins i ∧ kindOf i = .alu) : isSyscall o = false := by
  rcases ho with rfl | ⟨i, rfl, hkind⟩
  · rfl
  · exact isSyscall_of_kind (by simp [hkind])

theorem harvest (hp : p.Meets s) : harvestSet (p.bothIssued s) = [⟨.alu, s.nextTag, p.first.result⟩] := by
  have only : AluOnly (p.bothIssued s) := hp.only rfl rfl rfl rfl rfl
  have stations : (p.bothIssued s).rsAlu =
    [{ p.first.station s with result := p.first.result, progress := 1 }, p.station s] := rfl
  simp [harvestSet, only.rsMd, only.rsAgu, only.lb, stations, aluDone, AluRecord.station, AluPair.station, newRsEntry]

/-- The one message of the third tick, where the first record has a destination. -/
theorem message (hp : p.Meets s) : messages (p.bothIssued s) =
    if p.first.form.dest ≠ 0 then [⟨s.nextTag, p.first.result⟩] else [] := by
  have harvest := hp.harvest
  have owner : robAt (p.bothIssued s) s.nextTag = some (p.first.entry s) :=
    robAt_head (h := p.first.entry s) (younger := [p.entry s]) rfl
  have nosyscall : isSyscall (p.first.entry s).ins.op = false := isSyscall_other hp.firstOther
  have dest : (p.first.entry s).dest = p.first.form.dest := rfl
  by_cases h0 : p.first.form.dest ≠ 0
  · rw [if_pos h0]
    simp only [messages, harvest, List.filterMap_cons, List.filterMap_nil, owner, nosyscall, dest, if_pos (And.intro h0 trivial)]
  · rw [if_neg h0]
    simp only [messages, harvest, List.filterMap_cons, List.filterMap_nil, owner, dest, if_neg fun h => h0 (And.left h)]

/-- No message has tag 0. -/
theorem unnamed (hp : p.Meets s) : ((messages (p.bothIssued s)).find? fun m => m.tag == 0) = none := by
  obtain ⟨_, _, _, _, _, _, _, _, _, htag⟩ := hp.quiet
  rw [hp.message]
  split
  · simpa using Nat.ne_of_gt htag
  · rfl

/-- The message reaches an operand that awaits it. -/
theorem heard_slot (hp : p.Meets s) (x : Operand) :
    heard (messages (p.bothIssued s)) (p.slot s x).v (p.slot s x).q = ⟨p.operand s x, 0⟩ := by
  by_cases hx : p.first.form.dest ≠ 0 ∧ x = .reg p.first.form.dest
  · obtain ⟨h0, rfl⟩ := hx
    have slot : p.slot s (.reg p.first.form.dest) = ⟨0, s.nextTag⟩ := if_pos ⟨h0, rfl⟩
    have value : p.operand s (.reg p.first.form.dest) = p.first.result := by
      simp only [operand, operandValue, readReg, writeReg, if_neg h0, Vector.getElem_set_self]
    rw [slot, value, heard, hp.message, if_pos h0]
    simp
  · have slot : p.slot s x = ⟨operandValue (readReg s) p.second.record.pc x, 0⟩ := if_neg hx
    have value : p.operand s x = operandValue (readReg s) p.second.record.pc x := by
      cases x with
      | const v => rfl
      | pc => rfl
      | reg r =>
        by_cases h0 : p.first.form.dest = 0
        · simp only [operand, writeReg, if_pos h0]
        · have hr : r ≠ p.first.form.dest := fun h => hx ⟨h0, congrArg Operand.reg h⟩
          have hne : p.first.form.dest.toNat ≠ r.toNat := fun h => hr (BitVec.eq_of_toNat_eq h.symm)
          simp only [operand, operandValue, readReg, writeReg, if_neg h0, Vector.getElem_set_ne _ _ hne]
    rw [slot, value, heard]
    dsimp only
    rw [hp.unnamed]

/-- The broadcast of the third tick: the first record is complete, the second has its operands. -/
theorem first_broadcast (hp : p.Meets s) :
    broadcastStage (p.bothIssued s) = .next (p.firstHarvested s) := by
  obtain ⟨_, _, _, _, hmd, hagu, hlb, _, _, htag⟩ := hp.quiet
  obtain ⟨_, hdata⟩ := aluTableOp_form hp.secondResult hp.secondForm
  have only : AluOnly (p.bothIssued s) := hp.only rfl rfl rfl rfl rfl
  have entries : (p.bothIssued s).rob = [p.first.entry s, p.entry s] := rfl
  have stations : (p.bothIssued s).rsAlu =
    [{ p.first.station s with result := p.first.result, progress := 1 }, p.station s] := rfl
  have order : TagsInOrder (p.bothIssued s) := by
    simp [TagsInOrder, AluRecord.entry, AluPair.entry, newRobEntry, bothIssued, withPair]
    omega
  have owners : ∀ x ∈ harvestSet (p.bothIssued s), TagPresent (p.bothIssued s) x.tag := by
    rw [hp.harvest]
    simp [TagPresent, entries, AluRecord.entry, newRobEntry]
  have distinct : OneUnitPerTag (p.bothIssued s) := by
    simp [OneUnitPerTag, stations, only.rsMd, only.rsAgu, only.lb, AluRecord.station, AluPair.station, newRsEntry]
  have alu : ((p.bothIssued s).rsAlu.filter fun e => e.progress = 0).map (rsHeard (messages (p.bothIssued s))) =
      [p.resolved s] := by
    have station : rsHeard (messages (p.bothIssued s)) (p.station s) = p.resolved s := by
      simp only [rsHeard, AluPair.station, newRsEntry, hp.heard_slot]
      rfl
    rw [← station, stations]
    rfl
  have nosyscall : isSyscall p.first.record.op = false := isSyscall_other hp.firstOther
  have first : robHarvested (harvestSet (p.bothIssued s)) (p.first.entry s) = p.complete s := by
    simp [robHarvested, hp.harvest, nosyscall, AluRecord.entry, newRobEntry, complete]
  have second : robHarvested (harvestSet (p.bothIssued s)) (p.entry s) = p.entry s := by
    simp [robHarvested, hp.harvest, AluPair.entry, newRobEntry]
  have deaf (h : RobEntry) (hq : h.storeQ = 0) : robHeard (messages (p.bothIssued s)) h = h := by
    rw [robHeard, hq, hp.unnamed]
  have rob : ((p.bothIssued s).rob.map (robHarvested (harvestSet (p.bothIssued s)))).map
      (robHeard (messages (p.bothIssued s))) = [p.complete s, p.entry s] := by
    simp [entries, first, second, deaf (p.complete s) rfl, deaf (p.entry s) rfl]
  rw [broadcastInFull (p.bothIssued s) only.running order owners distinct, alu, rob, only.rsMd, only.rsAgu, only.lb,
    firstHarvested, withPair, hmd, hagu, hlb]
  rfl

/-- The third tick: the first result is broadcast, and the second record is evaluated. -/
theorem third_tick (hp : p.Meets s) (n : Nat) :
    backTicks (n + 1) (p.bothIssued s) = backTicks n (p.secondEvaluated s) := by
  have only : AluOnly (p.firstHarvested s) := hp.only rfl rfl rfl rfl rfl
  have waits : commitStage (p.bothIssued s) = .next (p.bothIssued s) := hp.commit_waits rfl rfl
  have evaluated := only.executeStage_evaluates (e := p.resolved s) rfl ⟨rfl, rfl, rfl⟩ rfl hp.secondResult
  exact backTicks_succ n waits only.running hp.first_broadcast only.running evaluated only.running (issueStage_empty rfl)
    only.running

/-- The first record retires in the fourth tick, and only the second claim is left. -/
theorem first_commit (hp : p.Meets s) : commitStage (p.secondEvaluated s) = .next (p.firstRetired s) := by
  obtain ⟨_, hstage, _, _, _, _, _, hrst, _, _⟩ := hp.quiet
  have left : rstReleased (p.secondEvaluated s) p.first.form.dest s.nextTag =
      rstClaimed s p.second.form.dest (s.nextTag + 1) :=
    rstReleased_first_of_two (u := p.firstIssued s) hrst rfl rfl (Nat.succ_ne_self s.nextTag)
  rw [commitStage_other_retires (s := p.secondEvaluated s) (h := p.complete s) hstage rfl hp.firstOther rfl]
  exact congrArg (fun rst => Host.Outcome.next (withPair s 3 (regsWith s p.first.form.dest p.first.result) rst [p.entry s]
    [{ p.resolved s with result := p.second.result, progress := 1 }])) left

/-- The fourth tick: the first record retires, and the second result is broadcast. -/
theorem fourth_tick (hp : p.Meets s) (n : Nat) :
    backTicks (n + 1) (p.secondEvaluated s) = backTicks n (p.secondHarvested s) := by
  have only : AluOnly (p.firstRetired s) := hp.only rfl rfl rfl rfl rfl
  have done := only.broadcastStage_done (e := { p.resolved s with result := p.second.result, progress := 1 }) rfl
    (Nat.le_refl 1) (h := p.entry s) rfl rfl (Nat.succ_ne_zero s.nextTag).symm
  exact backTicks_succ_idle n hp.first_commit only.running done ⟨only.running, only.stage, rfl, only.rsMd⟩ only.rsAgu
    only.lb rfl

/-- The second record retires in the fifth tick. -/
theorem second_commit (hp : p.Meets s) : commitStage (p.secondHarvested s) = .next { p.secondHarvested s with
    regs := (writeReg p.second.form.dest p.second.result (writeReg p.first.form.dest p.first.result s)).regs
    rst := clearAll, rob := [] } := by
  obtain ⟨_, hstage, _, _, _, _, _, hrst, _, _⟩ := hp.quiet
  have marked : markEntry p.second.result (p.entry s) =
      { p.entry s with complete := true, result := p.second.result } := by
    have nosyscall : isSyscall (p.entry s).ins.op = false := isSyscall_other hp.secondOther
    simp [markEntry, nosyscall]
  have free : rstReleased (p.secondHarvested s) p.second.form.dest (s.nextTag + 1) = clearAll :=
    rstReleased_of_claimed hrst rfl rfl
  rw [commitStage_other_retires (s := p.secondHarvested s) hstage (congrArg (fun h => [h]) marked) hp.secondOther rfl,
    writeReg_eq, writeReg_eq]
  exact congrArg (fun rst => Host.Outcome.next (withPair s 4 (regsWith (p.secondHarvested s) p.second.form.dest
    p.second.result) rst [] [])) free

/-- The empty structures of a quiet core, written out. -/
theorem empty_core (hp : p.Meets s) (regs : RegFile) (n c : Nat) :
    { s with regs := regs, rst := clearAll, iq := [], rsAlu := [], rob := [], nextTag := n, cycle := c } =
      { s with regs := regs, iq := [], nextTag := n, cycle := c } := by
  obtain ⟨_, _, hrob, halu, _, _, _, hrst, _, _⟩ := hp.quiet
  rw [← hrst, hrob, halu]

/-- The fifth tick: the second record retires, and the core is empty. -/
theorem fifth_tick (hp : p.Meets s) : backTicks 1 (p.secondHarvested s) = .next { s with
    regs := (writeReg p.second.form.dest p.second.result (writeReg p.first.form.dest p.first.result s)).regs
    iq := [], nextTag := s.nextTag + 2, cycle := s.cycle + 5 } := by
  have only : AluOnly (p.secondHarvested s) := hp.only rfl rfl rfl rfl rfl
  rw [backTicks_last hp.second_commit ⟨only.running, only.stage, rfl, only.rsMd⟩ only.rsAgu only.lb rfl]
  exact congrArg Host.Outcome.next (hp.empty_core (writeReg p.second.form.dest p.second.result
    (writeReg p.first.form.dest p.first.result s)).regs (s.nextTag + 2) (s.cycle + 5))

/-- From issue to the second's commit. -/
theorem five_ticks (hp : p.Meets s) : backTicks 5 s = .next { s with
    regs := (writeReg p.second.form.dest p.second.result (writeReg p.first.form.dest p.first.result s)).regs
    iq := [], nextTag := s.nextTag + 2, cycle := s.cycle + 5 } := by
  rw [hp.first_tick 4, hp.second_tick 3, hp.third_tick 2, hp.fourth_tick 1, hp.fifth_tick]

end AluPair.Meets

/-- Settles O56: the second record issues behind the first, hears its message, and follows it through the ALU and commit
one tick later. -/
theorem aluPairInOrder : Obligations.AluPairInOrder := by
  intro s r1 r2 d1 d2 v1 v2 hquiet hiq hvalue1 hvalue2
  obtain ⟨hop1, form1, hform1, rfl, hresult1⟩ := inOrderOp_tables hvalue1
  obtain ⟨hop2, form2, hform2, rfl, hresult2⟩ := inOrderOp_tables hvalue2
  have hp : AluPair.Meets ⟨⟨r1, form1, v1⟩, ⟨r2, form2, v2⟩⟩ s :=
    ⟨hquiet, hiq, hop1, hop2, hform1, hform2, hresult1, hresult2⟩
  rw [hp.five_ticks, writeReg_eq, writeReg_eq]

end Sys2Proof.Machine
end

section
/-! PROOFS. What a unit's work for one tag leaves of the entries of every other tag (40_cycle_issue_rename.md R135). -/

namespace Sys2Proof.Machine

/-- Every entry of the tag `t` in `s` is in `u` as well. -/
structure KeepsTag (t : Tag) (s u : State) : Prop where
  alu : ∀ e ∈ s.rsAlu, e.dest = t → e ∈ u.rsAlu
  md : ∀ e ∈ s.rsMd, e.dest = t → e ∈ u.rsMd
  agu : ∀ e ∈ s.rsAgu, e.dest = t → e ∈ u.rsAgu
  lb : ∀ l ∈ s.lb, l.owner = t → l ∈ u.lb
  rob : robAt u t = robAt s t

theorem KeepsTag.refl (t : Tag) (s : State) : KeepsTag t s s :=
  ⟨fun _ h _ => h, fun _ h _ => h, fun _ h _ => h, fun _ h _ => h, rfl⟩

theorem KeepsTag.trans {t : Tag} {s u v : State} (a : KeepsTag t s u) (b : KeepsTag t u v) : KeepsTag t s v where
  alu e he hd := b.alu e (a.alu e he hd) hd
  md e he hd := b.md e (a.md e he hd) hd
  agu e he hd := b.agu e (a.agu e he hd) hd
  lb l hl ho := b.lb l (a.lb l hl ho) ho
  rob := b.rob.trans a.rob

section

variable {o : Op} {t q : Tag} {s u : State}

theorem entryReady_false {e : RsEntry} (hd : e.dest = t) (hq : t ≠ q) : entryReady q e = false := by
  simp [entryReady, hd, hq]

theorem KeepsTag.aluEvaluate (f : Word → Word → Word → Word) (hq : t ≠ q) : KeepsTag t s (aluEvaluate f q s) :=
  ⟨fun _ he hd => mem_updateFirst_of_not he (by simp [entryReady_false hd hq]), fun _ h _ => h, fun _ h _ => h,
    fun _ h _ => h, rfl⟩

theorem KeepsTag.setMd {e : RsEntry} (hd : e.dest = q) (hq : t ≠ q) : KeepsTag t s (setMd e s) :=
  ⟨fun _ h _ => h, fun _ hx hx' => mem_updateFirst_of_not hx (by simp [hx', hd, hq]), fun _ h _ => h, fun _ h _ => h, rfl⟩

theorem KeepsTag.setLb {l : LbEntry} (ho : l.owner = q) (hq : t ≠ q) : KeepsTag t s (setLb l s) :=
  ⟨fun _ h _ => h, fun _ h _ => h, fun _ h _ => h, fun _ hx hx' => mem_updateFirst_of_not hx (by simp [hx', ho, hq]), rfl⟩

theorem KeepsTag.updateRob {f : RobEntry → RobEntry} (hf : ∀ h, (f h).tag = h.tag) (hq : t ≠ q) :
    KeepsTag t s (updateRob q f s) :=
  ⟨fun _ h _ => h, fun _ h _ => h, fun _ h _ => h, fun _ h _ => h, by rw [robAt_updateRob hf, if_neg hq]⟩

theorem KeepsTag.dropAgu (hq : t ≠ q) : KeepsTag t s (dropAgu q s) :=
  ⟨fun _ h _ => h, fun _ h _ => h,
    fun _ he hd => (List.mem_eraseP_of_neg (by simp [entryReady_false hd hq])).2 he, fun _ h _ => h, rfl⟩

theorem KeepsTag.addLb (l : LbEntry) (s : State) : KeepsTag t s (addLb l s) :=
  ⟨fun _ h _ => h, fun _ h _ => h, fun _ h _ => h, fun x hx _ => (mem_insertLb l x s.lb).2 (.inr hx), rfl⟩

theorem KeepsTag.setStatus (status : RunStatus) (s : State) : KeepsTag t s { s with status := status } :=
  ⟨fun _ h _ => h, fun _ h _ => h, fun _ h _ => h, fun _ h _ => h, rfl⟩

theorem KeepsTag.mdAdvance (lat : Nat) (f : Word → Word → Option Word) (op : DivOp) (hq : t ≠ q) :
    KeepsTag t s (mdAdvance lat f op q s) := by
  unfold Machine.mdAdvance
  split
  · exact .refl t s
  · rename_i e hfind
    have ready := List.find?_some hfind
    have hd : e.dest = q := (entryReady_iff.1 (Bool.and_eq_true_iff.1 ready).1).1
    dsimp only
    split
    · split
      · exact .setMd hd hq
      · exact (KeepsTag.setMd (e := { e with progress := e.progress + 1 }) hd hq).trans (.setStatus _ _)
    · exact .setMd hd hq

theorem KeepsTag.setAddress (a : Word) (hq : t ≠ q) : KeepsTag t s (setAddress q a s) := .updateRob (fun _ => rfl) hq

theorem ExecuteMove.keepsTag (m : ExecuteMove o q s u) (hq : t ≠ q) : KeepsTag t s u := by
  cases m with
  | alu f => exact .aluEvaluate f hq
  | md lat f op => exact .mdAdvance lat f op hq
  | load =>
    unfold aguLoad
    split
    · exact .refl t s
    · exact (KeepsTag.addLb _ s).trans (.dropAgu hq)
  | store =>
    unfold aguStore
    split
    · exact .refl t s
    · split
      · exact .setStatus _ s
      · exact (KeepsTag.setAddress _ hq).trans (.dropAgu hq)
  | amo =>
    unfold aguAmo
    split
    · exact .refl t s
    · split
      · exact .setStatus _ s
      · exact (KeepsTag.setAddress _ hq).trans ((KeepsTag.addLb _ _).trans (.dropAgu hq))
  | loadReserved =>
    unfold aguLoadReserved
    split
    · exact .refl t s
    · split
      · exact .setStatus _ s
      · exact (KeepsTag.setAddress _ hq).trans ⟨fun _ h _ => h, fun _ h _ => h,
          fun _ he hd => mem_updateFirst_of_not he (by simp [entryReady_false hd hq]), fun _ h _ => h, rfl⟩
  | refused => exact .setStatus _ s

theorem KeepsTag.lbProceed {wl : Width} {fin : LbEntry → Word → State → State} {l : LbEntry} (ho : l.owner = q)
    (hq : t ≠ q) (hfin : ∀ (l : LbEntry) v s, l.owner = q → KeepsTag t s (fin l v s)) :
    KeepsTag t s (lbProceed wl fin l s) := by
  have counted : KeepsTag t s (Machine.setLb { l with progress := l.progress + 1 } s) := .setLb ho hq
  unfold Machine.lbProceed
  dsimp only
  split
  · split
    · exact counted.trans (hfin _ _ _ ho)
    · split
      · exact counted.trans (.setStatus _ _)
      · exact counted.trans (hfin _ _ _ ho)
  · exact counted

theorem KeepsTag.lbAdvance {wl : Width} {fin : LbEntry → Word → State → State} (hq : t ≠ q)
    (hfin : ∀ (l : LbEntry) v s, l.owner = q → KeepsTag t s (fin l v s)) : KeepsTag t s (lbAdvance wl fin q s) := by
  unfold Machine.lbAdvance
  split
  · exact .refl t s
  · rename_i l hfind
    have working := List.find?_some hfind
    have ho : l.owner = q := beq_iff_eq.1 (Bool.and_eq_true_iff.1 working).1
    split
    · exact .lbProceed ho hq hfin
    · split
      · exact .refl t s
      · exact .lbProceed (l := clearedEntry l _) ho hq hfin
      · exact .lbProceed (l := clearedEntry l _) ho hq hfin
      · exact .setStatus _ s

theorem LoadMove.keepsTag (m : LoadMove o q s u) (hq : t ≠ q) : KeepsTag t s u := by
  cases m with
  | load w sign => exact .lbAdvance hq fun l v s ho => .setLb (l := { l with result := _ }) ho hq
  | amo result new =>
    refine .lbAdvance hq fun l v s ho => ?_
    subst ho
    have written : KeepsTag t s (setLb { l with result := result v l.src } s) := .setLb rfl hq
    unfold finishAmo
    dsimp only
    split
    · exact written.trans (.setStatus _ _)
    · exact written.trans (.updateRob (fun _ => rfl) hq)
  | other => exact .refl t s
  | refused => exact .setStatus _ s

end

end Sys2Proof.Machine
end

section
/-! PROOFS. How far the entry of a tag is from its commit (70_reset_and_hazards.md R445; 46_commit.md R378), and that what a
unit does for its own tag brings it nearer. -/

namespace Sys2Proof.Machine

/-! ### The ticks an entry still needs -/

/-- The ALU runs the op: rs_alu is its pool (30_encoding.md R110). -/
def AluKind (o : Op) : Prop :=
  opKind o = .alu ∨ opKind o = .branch ∨ opKind o = .syscall ∨ opKind o = .suppressed

/-- The MULDIV unit runs the op. -/
def MdKind (o : Op) : Prop := opKind o = .mul ∨ opKind o = .div

/-- As the head, the entry leaves the reorder buffer with the next commit stage, or ends the run (46_commit.md R372 to
R376). -/
inductive Ready (h : RobEntry) : Prop
  | store (hw : storeWidth h.ins.op ≠ none) (ha : h.addrReady = true) (hv : h.valueReady = true) (hp : h.progress ≠ 0)
  | syscall (hk : opKind h.ins.op = .syscall) (hv : h.valueReady = true)
  | other (hw : storeWidth h.ins.op = none) (hk : opKind h.ins.op ≠ .syscall) (hc : h.complete = true)

/-- The entry of a store has its data or waits for it (40_cycle_issue_rename.md R144). -/
def Sourced (h : RobEntry) : Prop := h.valueReady = true ∨ h.storeQ ≠ 0

/-- A store-class entry with nothing before it but its data and the latency tick (46_commit.md R372). -/
structure Addressed (h : RobEntry) : Prop where
  store : storeWidth h.ins.op ≠ none
  addr : h.addrReady = true
  source : Sourced h

/-- If it waits for nothing older, the entry `h` of the tag `t` commits within `k` ticks, the next one counted. -/
inductive Due (s : State) (t : Tag) (h : RobEntry) (k : Nat) : Prop
  | ready (hh : Ready h) (hk : 1 ≤ k)
  | holds (hh : Addressed h) (hk : 2 ≤ k)
  | alu (e : RsEntry) (he : e ∈ s.rsAlu) (hd : e.dest = t) (ho : AluKind h.ins.op) (hk : 2 ≤ k)
      (hp : e.progress = 0 → 3 ≤ k)
  | md (e : RsEntry) (he : e ∈ s.rsMd) (hd : e.dest = t) (ho : MdKind h.ins.op) (hk : 2 ≤ k)
      (hp : latency s.cfg h.ins.op + 2 ≤ k + e.progress)
  | reserve (e : RsEntry) (he : e ∈ s.rsAgu) (hd : e.dest = t) (ho : opKind h.ins.op = .loadReserved) (hk : 2 ≤ k)
      (hp : e.progress = 0 → 3 ≤ k)
  | address (e : RsEntry) (w : Width) (he : e ∈ s.rsAgu) (hd : e.dest = t) (ho : opKind h.ins.op = .store w)
      (hp : e.progress = 0) (hq : Sourced h) (hk : 3 ≤ k)
  | buffer (e : RsEntry) (he : e ∈ s.rsAgu) (hd : e.dest = t) (ho : opKind h.ins.op = .load ∨ opKind h.ins.op = .amo)
      (hp : e.progress = 0) (hk : s.cfg.cacheLat + 2 ≤ k)
  | load (l : LbEntry) (hl : l ∈ s.lb) (hown : l.owner = t) (ho : opKind h.ins.op = .load) (hk : 2 ≤ k)
      (hp : s.cfg.cacheLat + 2 ≤ k + l.progress)
  | atomic (l : LbEntry) (hl : l ∈ s.lb) (hown : l.owner = t) (ho : opKind h.ins.op = .amo) (ha : h.addrReady = true)
      (hless : l.progress < s.cfg.cacheLat) (hp : s.cfg.cacheLat + 2 ≤ k + l.progress)

theorem Due.mono {s : State} {t : Tag} {h : RobEntry} {k n : Nat} (d : Due s t h k) (hkn : k ≤ n) : Due s t h n := by
  cases d with
  | ready hh hk => exact .ready hh (by omega)
  | holds hh hk => exact .holds hh (by omega)
  | alu e he hd ho hk hp => exact .alu e he hd ho (by omega) fun h0 => by have := hp h0; omega
  | md e he hd ho hk hp => exact .md e he hd ho (by omega) (by omega)
  | reserve e he hd ho hk hp => exact .reserve e he hd ho (by omega) fun h0 => by have := hp h0; omega
  | address e w he hd ho hp hq hk => exact .address e w he hd ho hp hq (by omega)
  | buffer e he hd ho hp hk => exact .buffer e he hd ho hp (by omega)
  | load l hl hown ho hk hp => exact .load l hl hown ho (by omega) (by omega)
  | atomic l hl hown ho ha hless hp => exact .atomic l hl hown ho ha hless (by omega)

/-- What brings an entry no farther from its commit. -/
structure Stays (h g : RobEntry) : Prop where
  ins : g.ins = h.ins
  progress : g.progress = h.progress
  complete : h.complete = true → g.complete = true
  addr : h.addrReady = true → g.addrReady = true
  value : h.valueReady = true → g.valueReady = true
  source : Sourced h → Sourced g

theorem Stays.refl (h : RobEntry) : Stays h h := ⟨rfl, rfl, id, id, id, id⟩

theorem Stays.trans {h g k : RobEntry} (a : Stays h g) (b : Stays g k) : Stays h k :=
  ⟨b.ins.trans a.ins, b.progress.trans a.progress, b.complete ∘ a.complete, b.addr ∘ a.addr, b.value ∘ a.value,
    b.source ∘ a.source⟩

theorem Ready.stays {h g : RobEntry} (r : Ready h) (m : Stays h g) : Ready g := by
  have hins := m.ins
  cases r with
  | store hw ha hv hp => exact .store (hins ▸ hw) (m.addr ha) (m.value hv) (m.progress ▸ hp)
  | syscall hk hv => exact .syscall (hins ▸ hk) (m.value hv)
  | other hw hk hc => exact .other (hins ▸ hw) (hins ▸ hk) (m.complete hc)

theorem Addressed.stays {h g : RobEntry} (a : Addressed h) (m : Stays h g) : Addressed g :=
  ⟨m.ins ▸ a.store, m.addr a.addr, m.source a.source⟩

/-- Address generation has done its work for the tag `t` (43_load_store_amo.md R261 to R264). -/
inductive Generated (u : State) (t : Tag) (g : RobEntry) : Prop
  | reserved (x : RsEntry) (hx : x ∈ u.rsAgu) (hd : x.dest = t) (ho : opKind g.ins.op = .loadReserved)
      (hp : x.progress ≠ 0)
  | addressed (w : Width) (ho : opKind g.ins.op = .store w) (ha : g.addrReady = true)
  | buffered (l : LbEntry) (hl : l ∈ u.lb) (hown : l.owner = t) (ho : opKind g.ins.op = .load)
      (hp : l.progress = 0)
  | atomic (l : LbEntry) (hl : l ∈ u.lb) (hown : l.owner = t) (ho : opKind g.ins.op = .amo) (ha : g.addrReady = true)
      (hp : l.progress = 0)

section

variable {s u : State} {t : Tag} {h g : RobEntry} {k : Nat}

theorem storeWidth_store {o : Op} {w : Width} (h : opKind o = .store w) : storeWidth o ≠ none := by
  simp [storeWidth, h]

theorem storeWidth_atomic {o : Op} (h : opKind o = .amo) : storeWidth o ≠ none := by
  simp [storeWidth, h]

/-- Behind the address generation, a store or LR.W is one tick nearer; a load or an AMO has its way through the load
buffer before it. -/
theorem Generated.due (m : Generated u t g) (hlat : 1 ≤ u.cfg.cacheLat) (hq : (∃ w, opKind g.ins.op = .store w) → Sourced g)
    (hk : 2 ≤ k) (hbuffer : opKind g.ins.op = .load ∨ opKind g.ins.op = .amo → u.cfg.cacheLat + 2 ≤ k) :
    Due u t g k := by
  cases m with
  | reserved x hx hd ho hp => exact .reserve x hx hd ho hk fun h0 => absurd h0 hp
  | addressed w ho ha => exact .holds ⟨storeWidth_store ho, ha, hq ⟨w, ho⟩⟩ hk
  | buffered l hl hown ho hp => exact .load l hl hown ho hk (Nat.le_trans (hbuffer (.inl ho)) (Nat.le_add_right _ _))
  | atomic l hl hown ho ha hp =>
    exact .atomic l hl hown ho ha (by omega) (Nat.le_trans (hbuffer (.inr ho)) (Nat.le_add_right _ _))

/-- Units that go on with their entries of a tag bring it no farther from its commit. -/
theorem Due.moved (d : Due s t h k) (m : Stays h g) (hcfg : u.cfg = s.cfg) (hlat : 1 ≤ s.cfg.cacheLat)
    (halu : ∀ e ∈ s.rsAlu, e.dest = t → ∃ x ∈ u.rsAlu, x.dest = t ∧ (e.progress ≠ 0 → x.progress ≠ 0))
    (hmd : ∀ e ∈ s.rsMd, e.dest = t → ∃ x ∈ u.rsMd, x.dest = t ∧ e.progress ≤ x.progress)
    (hagu : ∀ e ∈ s.rsAgu, e.dest = t → e ∈ u.rsAgu ∨ Generated u t g)
    (hlb : ∀ l ∈ s.lb, l.owner = t → ∃ x ∈ u.lb, x.owner = t ∧ l.progress ≤ x.progress ∧
      (opKind g.ins.op = .amo → x.progress < s.cfg.cacheLat ∨ s.cfg.cacheLat ≤ l.progress ∨ g.valueReady = true)) :
    Due u t g k := by
  have hins := m.ins
  cases d with
  | ready hh hk => exact .ready (hh.stays m) hk
  | holds hh hk => exact .holds (hh.stays m) hk
  | alu e he hd ho hk hp =>
    obtain ⟨x, hx, hxd, hxp⟩ := halu e he hd
    exact .alu x hx hxd (hins ▸ ho) hk fun h0 => hp (Decidable.byContradiction fun hn => hxp hn h0)
  | md e he hd ho hk hp =>
    obtain ⟨x, hx, hxd, hxp⟩ := hmd e he hd
    exact .md x hx hxd (hins ▸ ho) hk (by rw [hcfg, hins]; omega)
  | reserve e he hd ho hk hp =>
    rcases hagu e he hd with hx | hgen
    · exact .reserve e hx hd (hins ▸ ho) hk hp
    · exact hgen.due (hcfg ▸ hlat) (by simp [hins, ho]) hk (by simp [hins, ho])
  | address e w he hd ho hp hq hk =>
    rcases hagu e he hd with hx | hgen
    · exact .address e w hx hd (hins ▸ ho) hp (m.source hq) hk
    · exact hgen.due (hcfg ▸ hlat) (fun _ => m.source hq) (by omega) (by simp [hins, ho])
  | buffer e he hd ho hp hk =>
    rcases hagu e he hd with hx | hgen
    · exact .buffer e hx hd (hins ▸ ho) hp (hcfg ▸ hk)
    · refine hgen.due (hcfg ▸ hlat) (fun ⟨w, hw⟩ => ?_) (by omega) fun _ => hcfg ▸ hk
      rcases ho with ho | ho <;> simp [hins, ho] at hw
  | load l hl hown ho hk hp =>
    obtain ⟨x, hx, hxo, hxp, _⟩ := hlb l hl hown
    exact .load x hx hxo (hins ▸ ho) hk (by rw [hcfg]; omega)
  | atomic l hl hown ho ha hless hp =>
    obtain ⟨x, hx, hxo, hxp, hamo⟩ := hlb l hl hown
    rcases hamo (hins ▸ ho) with hless' | hfull | hv
    · exact .atomic x hx hxo (hins ▸ ho) (m.addr ha) (hcfg ▸ hless') (by rw [hcfg]; omega)
    · omega
    · exact .holds ⟨storeWidth_atomic (hins ▸ ho), m.addr ha, .inl hv⟩ (by omega)

/-- What is true of the entries of a tag stays true where they are kept. -/
theorem Due.kept (d : Due s t h k) (m : Stays h g) (hcfg : u.cfg = s.cfg) (hlat : 1 ≤ s.cfg.cacheLat)
    (halu : ∀ e ∈ s.rsAlu, e.dest = t → e ∈ u.rsAlu)
    (hmd : ∀ e ∈ s.rsMd, e.dest = t → e ∈ u.rsMd) (hagu : ∀ e ∈ s.rsAgu, e.dest = t → e ∈ u.rsAgu)
    (hlb : ∀ l ∈ s.lb, l.owner = t → l ∈ u.lb) : Due u t g k :=
  d.moved m hcfg hlat (fun e he hd => ⟨e, halu e he hd, hd, id⟩) (fun e he hd => ⟨e, hmd e he hd, hd, Nat.le_refl _⟩)
    (fun e he hd => .inl (hagu e he hd)) fun l hl hown => ⟨l, hlb l hl hown, hown, Nat.le_refl _,
      fun _ => (Nat.lt_or_ge _ _).imp_right .inl⟩

theorem KeepsTag.due (a : KeepsTag t s u) (hcfg : u.cfg = s.cfg) (hlat : 1 ≤ s.cfg.cacheLat) (d : Due s t h k) :
    Due u t h k :=
  d.kept (.refl h) hcfg hlat a.alu a.md a.agu a.lb

end

/-! ### What a visit does for its own tag -/

section

variable {α : Type}

/-- Where one element fits, updateFirst leaves a changed element. -/
theorem exists_mem_updateFirst {p : α → Bool} (f : α → α) {l : List α} {x : α} (hx : x ∈ l) (hp : p x = true) :
    ∃ y ∈ l, p y = true ∧ f y ∈ updateFirst p f l := by
  obtain ⟨y, hy⟩ := Option.isSome_iff_exists.1 (List.find?_isSome.2 ⟨x, hx, hp⟩)
  obtain ⟨before, after, hsplit⟩ := find_some_split hy
  refine ⟨y, List.mem_of_find?_eq_some hy, hsplit.2.1, ?_⟩
  rw [updateFirst_split f hsplit]
  simp

end

section

variable {s u : State} {t : Tag} {o : Op}

/-- The ALU evaluates an entry of its tag that is ready, and unmakes no evaluation. -/
theorem aluEvaluate_own (f : Word → Word → Word → Word) {e : RsEntry} (he : e ∈ s.rsAlu) (hd : e.dest = t) :
    ∃ x ∈ (aluEvaluate f t s).rsAlu, x.dest = t ∧ (e.progress ≠ 0 ∨ e.ready = true → x.progress ≠ 0) := by
  by_cases hp : (entryReady t e && e.progress == 0) = true
  · obtain ⟨y, _, hy, hmem⟩ := exists_mem_updateFirst (p := fun e => entryReady t e && e.progress == 0)
      (fun e => { e with result := f e.vj e.vk e.ins.pc, progress := 1 }) he hp
    exact ⟨_, hmem, (entryReady_iff.1 (Bool.and_eq_true_iff.1 hy).1).1, fun _ => Nat.one_ne_zero⟩
  · refine ⟨e, mem_updateFirst_of_not he (by simpa using hp), hd, ?_⟩
    rintro (h | h)
    · exact h
    · intro h0
      simp [entryReady, hd, h, h0] at hp

/-- The MULDIV unit counts a tick for an entry of its tag that is ready, and takes none back. -/
theorem mdAdvance_own (lat : Nat) (f : Word → Word → Option Word) (op : DivOp) {e : RsEntry}
    (hone : ∀ x ∈ s.rsMd, x.dest = e.dest → x = e) (he : e ∈ s.rsMd) (hd : e.dest = t) :
    ∃ x ∈ (mdAdvance lat f op t s).rsMd, x.dest = t ∧ e.progress ≤ x.progress ∧
      (e.ready = true → e.progress < lat → x.progress = e.progress + 1) := by
  unfold mdAdvance
  split
  · rename_i hnone
    refine ⟨e, he, hd, Nat.le_refl _, fun hr hl => ?_⟩
    have := List.find?_eq_none.1 hnone e he
    simp [entryReady, hd, hr, hl] at this
  · rename_i x hfind
    have found := List.find?_some hfind
    have hx : x = e := by
      refine hone x (List.mem_of_find?_eq_some hfind) ?_
      exact (entryReady_iff.1 (Bool.and_eq_true_iff.1 found).1).1.trans hd.symm
    subst hx
    have placed (n : Nat) (v : Word) : { x with progress := n, result := v } ∈
        (setMd { x with progress := n, result := v } s).rsMd := mem_updateFirst_const he (by simp)
    dsimp only
    split
    · split
      · exact ⟨_, placed _ _, hd, Nat.le_succ _, fun _ _ => rfl⟩
      · exact ⟨_, placed _ _, hd, Nat.le_succ _, fun _ _ => rfl⟩
    · exact ⟨_, placed _ _, hd, Nat.le_succ _, fun _ _ => rfl⟩

/-- The MULDIV unit changes its own pool and the status. -/
theorem mdAdvance_frame (lat : Nat) (f : Word → Word → Option Word) (op : DivOp) (t : Tag) (s : State) :
    (mdAdvance lat f op t s).rsAlu = s.rsAlu ∧ (mdAdvance lat f op t s).rsAgu = s.rsAgu ∧
      (mdAdvance lat f op t s).lb = s.lb ∧ (mdAdvance lat f op t s).rob = s.rob := by
  unfold mdAdvance
  split
  · exact ⟨rfl, rfl, rfl, rfl⟩
  · dsimp only
    split
    · split <;> exact ⟨rfl, rfl, rfl, rfl⟩
    · exact ⟨rfl, rfl, rfl, rfl⟩

/-- Address generation finds an entry of its tag that is ready. -/
theorem aguEntry_of_ready {e : RsEntry} (he : e ∈ s.rsAgu) (hd : e.dest = t) (hr : e.ready = true)
    (hp : e.progress = 0) : ∃ x, aguEntry t s = some x :=
  Option.isSome_iff_exists.1 (List.find?_isSome.2 ⟨e, he, by simp [entryReady, hd, hr, hp]⟩)

/-- What address generation does for its own tag: nothing, or all of its work. -/
structure AguWork (t : Tag) (s u : State) (h g : RobEntry) : Prop where
  alu : u.rsAlu = s.rsAlu
  md : u.rsMd = s.rsMd
  lb : ∀ l ∈ s.lb, l ∈ u.lb
  entry : robAt u t = some g
  stays : Stays h g
  work : (aguEntry t s = none ∧ u = s) ∨ Generated u t g

theorem AguWork.idle {h : RobEntry} (e : robAt s t = some h) (hn : aguEntry t s = none) : AguWork t s s h h :=
  ⟨rfl, rfl, fun _ => id, e, .refl h, .inl ⟨hn, rfl⟩⟩

theorem mem_lb_added (x : LbEntry) (s : State) : ∀ l ∈ s.lb, l ∈ (addLb x s).lb :=
  fun l hl => (mem_insertLb x l s.lb).2 (.inr hl)

theorem newLbEntry_mem_added (e : RsEntry) (src : Word) (s : State) : newLbEntry e src ∈ (addLb (newLbEntry e src) s).lb :=
  (mem_insertLb _ _ s.lb).2 (.inl rfl)

theorem aguLoad_own {h : RobEntry} (e : robAt s t = some h) (hk : opKind h.ins.op = .load) :
    AguWork t s (aguLoad t s) h h := by
  cases hx : aguEntry t s with
  | none =>
    rw [aguLoad_none hx]
    exact .idle e hx
  | some x =>
    rw [aguLoad, hx]
    exact ⟨rfl, rfl, mem_lb_added _ s, e, .refl h,
      .inr (.buffered (newLbEntry x 0) (newLbEntry_mem_added x 0 s) (aguEntry_mem hx).2 hk rfl)⟩

/-- The owner's entry once its address is written. -/
def addressed (h : RobEntry) (a : Word) : RobEntry := { h with addr := a, addrReady := true }

theorem robAt_setAddress {h : RobEntry} (e : robAt s t = some h) (a : Word) :
    robAt (setAddress t a s) t = some (addressed h a) := by
  have written := robAt_updateRob (f := fun h => addressed h a) (fun _ => rfl) t t s
  rwa [if_pos rfl, e] at written

theorem addressed_stays (h : RobEntry) (a : Word) : Stays h (addressed h a) :=
  ⟨rfl, rfl, id, fun _ => rfl, id, id⟩

theorem aguStore_own {h : RobEntry} {w : Width} (e : robAt s t = some h) (hk : opKind h.ins.op = .store w) :
    ∃ g, AguWork t s (aguStore t s) h g := by
  cases hx : aguEntry t s with
  | none =>
    rw [aguStore_none hx]
    exact ⟨h, .idle e hx⟩
  | some x =>
    rw [aguStore, hx]
    dsimp only
    rw [e]
    exact ⟨_, rfl, rfl, fun _ => id, robAt_setAddress e _, addressed_stays h _, .inr (.addressed w hk rfl)⟩

theorem aguAmo_own {h : RobEntry} (e : robAt s t = some h) (hk : opKind h.ins.op = .amo) :
    ∃ g, AguWork t s (aguAmo t s) h g := by
  cases hx : aguEntry t s with
  | none =>
    rw [aguAmo_none hx]
    exact ⟨h, .idle e hx⟩
  | some x =>
    rw [aguAmo, hx]
    dsimp only
    rw [e]
    exact ⟨_, rfl, rfl, mem_lb_added _ _, robAt_setAddress e _, addressed_stays h _,
      .inr (.atomic _ (newLbEntry_mem_added x x.vk (setAddress t (effectiveAddress x) s)) (aguEntry_mem hx).2 hk rfl rfl)⟩

theorem aguLoadReserved_own {h : RobEntry} (e : robAt s t = some h) (hk : opKind h.ins.op = .loadReserved) :
    ∃ g, AguWork t s (aguLoadReserved t s) h g := by
  cases hx : aguEntry t s with
  | none =>
    rw [aguLoadReserved_none hx]
    exact ⟨h, .idle e hx⟩
  | some x =>
    have ready := List.find?_some hx
    obtain ⟨y, _, hy, hmem⟩ := exists_mem_updateFirst (p := fun x => entryReady t x && x.progress == 0)
      (fun x => { x with result := 0, progress := 1 }) (List.mem_of_find?_eq_some hx) ready
    rw [aguLoadReserved, hx]
    dsimp only
    rw [e]
    exact ⟨_, rfl, rfl, fun _ => id, robAt_setAddress e _, addressed_stays h _,
      .inr (.reserved _ hmem (entryReady_iff.1 (Bool.and_eq_true_iff.1 hy).1).1 hk Nat.one_ne_zero)⟩

/-- The entries of a tag are no farther from their commit after address generation for that tag. -/
theorem AguWork.due {h g : RobEntry} {k : Nat} (w : AguWork t s u h g) (hcfg : u.cfg = s.cfg) (hlat : 1 ≤ s.cfg.cacheLat)
    (d : Due s t h k) : Due u t g k := by
  refine d.moved w.stays hcfg hlat (fun e he hd => ⟨e, w.alu ▸ he, hd, id⟩)
    (fun e he hd => ⟨e, w.md ▸ he, hd, Nat.le_refl _⟩) (fun e he hd => ?_) fun l hl hown => ⟨l, w.lb l hl, hown,
      Nat.le_refl _, fun _ => (Nat.lt_or_ge _ _).imp_right .inl⟩
  rcases w.work with ⟨_, rfl⟩ | hgen
  · exact .inl he
  · exact .inr hgen

/-- A unit's work for its own tag brings the entry of that tag no farther from its commit. -/
theorem ExecuteMove.due {h : RobEntry} (m : ExecuteMove o t s u) (hs : InFlight s) (hlat : 1 ≤ s.cfg.cacheLat)
    (e : robAt s t = some h) (ho : h.ins.op = o) (hu : u.status = .running) :
    ∃ g, robAt u t = some g ∧ Stays h g ∧ ∀ k, Due s t h k → Due u t g k := by
  have hcfg := m.backendOnly.cfg
  cases m with
  | alu f =>
    exact ⟨h, e, .refl h, fun k d => d.moved (.refl h) hcfg hlat (fun x hx hd =>
      have ⟨y, hy, hyd, hp⟩ := aluEvaluate_own f hx hd; ⟨y, hy, hyd, fun h0 => hp (.inl h0)⟩)
      (fun x hx hd => ⟨x, hx, hd, Nat.le_refl _⟩) (fun x hx _ => .inl hx) fun l hl hown => ⟨l, hl, hown,
      Nat.le_refl _, fun _ => (Nat.lt_or_ge _ _).imp_right .inl⟩⟩
  | md lat f op =>
    obtain ⟨halu, hagu, hlb, hrob⟩ := mdAdvance_frame lat f op t s
    refine ⟨h, (robAt_congr hrob t).trans e, .refl h, fun k d => d.moved (.refl h) hcfg hlat
      (fun x hx hd => ⟨x, halu ▸ hx, hd, id⟩) (fun x hx hd => ?_) (fun x hx _ => .inl (hagu ▸ hx))
      fun l hl hown => ⟨l, hlb ▸ hl, hown, Nat.le_refl _, fun _ => (Nat.lt_or_ge _ _).imp_right .inl⟩⟩
    obtain ⟨y, hy, hyd, hle, _⟩ := mdAdvance_own lat f op (fun y hy h => hs.md_inj hx hy h) hx hd
    exact ⟨y, hy, hyd, hle⟩
  | load hk =>
    have w := aguLoad_own e (ho ▸ hk)
    exact ⟨h, w.entry, w.stays, fun k => w.due hcfg hlat⟩
  | store w hk =>
    obtain ⟨g, w⟩ := aguStore_own e (ho ▸ hk)
    exact ⟨g, w.entry, w.stays, fun k => w.due hcfg hlat⟩
  | amo hk =>
    obtain ⟨g, w⟩ := aguAmo_own e (ho ▸ hk)
    exact ⟨g, w.entry, w.stays, fun k => w.due hcfg hlat⟩
  | loadReserved hk =>
    obtain ⟨g, w⟩ := aguLoadReserved_own e (ho ▸ hk)
    exact ⟨g, w.entry, w.stays, fun k => w.due hcfg hlat⟩
  | refused => cases hu

end

end Sys2Proof.Machine
end

section
/-! PROOFS. The load buffer's work for its own tag brings the entry of that tag nearer to its commit
(43_load_store_amo.md R270, R273). -/

namespace Sys2Proof.Machine

section

variable {s u : State} {t : Tag} {h g : RobEntry}

theorem allowed_of_accessFault {c : Config} {a : Word} {n : Nat} (h : accessFault c a n = none) : Allowed c a n := by
  by_cases hm : IsMisaligned c a n
  · rw [accessFault_misaligned hm] at h
    cases h
  · rw [accessFault_aligned hm] at h
    exact ⟨hm, (mappedAll_iff c a n).1 (by simpa using h)⟩

/-- What the load-buffer step does for its own tag: its entry goes on, by a tick where no older entry can stall it, and an
AMO that comes to its latency has its value. -/
structure LbWork (t : Tag) (s u : State) (h g : RobEntry) : Prop where
  alu : u.rsAlu = s.rsAlu
  md : u.rsMd = s.rsMd
  agu : u.rsAgu = s.rsAgu
  atTag : robAt u t = some g
  stays : Stays h g
  work : ∀ l ∈ s.lb, l.owner = t → ∃ x ∈ u.lb, x.owner = t ∧ l.progress ≤ x.progress ∧
    (olderThan s t = [] → l.progress < s.cfg.cacheLat → x.progress = l.progress + 1) ∧
    (opKind g.ins.op = .amo → x.progress < s.cfg.cacheLat ∨ s.cfg.cacheLat ≤ l.progress ∨ g.valueReady = true)

theorem LbWork.due {k : Nat} (w : LbWork t s u h g) (hcfg : u.cfg = s.cfg) (hlat : 1 ≤ s.cfg.cacheLat)
    (d : Due s t h k) : Due u t g k :=
  d.moved w.stays hcfg hlat (fun e he hd => ⟨e, w.alu ▸ he, hd, id⟩) (fun e he hd => ⟨e, w.md ▸ he, hd, Nat.le_refl _⟩)
    (fun _ he _ => .inl (w.agu ▸ he)) fun l hl hown =>
      have ⟨x, hx, hxo, hle, _, hamo⟩ := w.work l hl hown
      ⟨x, hx, hxo, hle, hamo⟩

/-- What is done with a value, for the tag `t`: the entry stays in the load buffer with its progress, and an AMO's value
is ready. -/
structure FinishWork (t : Tag) (n : Nat) (s u : State) (h g : RobEntry) : Prop where
  alu : u.rsAlu = s.rsAlu
  md : u.rsMd = s.rsMd
  agu : u.rsAgu = s.rsAgu
  atTag : robAt u t = some g
  stays : Stays h g
  placed : ∃ x ∈ u.lb, x.owner = t ∧ x.progress = n
  value : opKind g.ins.op = .amo → g.valueReady = true

theorem finishLoad_work (wl : Width) (sign : Bool) {l : LbEntry} (v : Word) (hl : l ∈ s.lb) (hown : l.owner = t)
    (e : robAt s t = some h) (hk : opKind h.ins.op = .load) :
    FinishWork t l.progress s (finishLoad wl sign l v s) h h :=
  ⟨rfl, rfl, rfl, e, .refl h, ⟨_, mem_updateFirst_const hl (by simp), hown, rfl⟩, by simp [hk]⟩

/-- The owner's entry once an AMO has its value. -/
def combined (h : RobEntry) (result wb : Word) : RobEntry := { h with result := result, wb := wb, valueReady := true }

theorem finishAmo_work (result new : Word → Word → Word) {l : LbEntry} (v : Word) (hl : l ∈ s.lb) (hown : l.owner = t)
    (e : robAt s t = some h) :
    FinishWork t l.progress s (finishAmo result new l v s) h (combined h (result v l.src) (new v l.src)) := by
  subst hown
  have placed : { l with result := result v l.src } ∈ (setLb { l with result := result v l.src } s).lb :=
    mem_updateFirst_const hl (by simp)
  have same : robAt (setLb { l with result := result v l.src } s) l.owner = some h := e
  have written := robAt_updateRob (f := fun h => combined h (result v l.src) (new v l.src)) (fun _ => rfl) l.owner l.owner
    (setLb { l with result := result v l.src } s)
  rw [if_pos rfl, same] at written
  unfold finishAmo
  dsimp only
  rw [same]
  exact ⟨rfl, rfl, rfl, written, ⟨rfl, rfl, id, id, fun _ => rfl, fun _ => .inl rfl⟩, ⟨_, placed, rfl, rfl⟩,
    fun _ => rfl⟩

/-- The step behind the scan, where the run goes on: a tick, and at the latency the value. -/
theorem lbProceed_cases {w : Width} (fin : LbEntry → Word → State → State) {m : LbEntry}
    (hu : (lbProceed w fin m s).status = .running) :
    (m.progress + 1 ≠ s.cfg.cacheLat ∧ lbProceed w fin m s = setLb m.counted s) ∨
      (m.progress + 1 = s.cfg.cacheLat ∧ ∃ v, HasValue s m w v ∧
        lbProceed w fin m s = fin m.counted v (setLb m.counted s)) := by
  by_cases hlast : m.progress + 1 = s.cfg.cacheLat
  · refine .inr ⟨hlast, ?_⟩
    cases hfwd : m.fwd with
    | some v => exact ⟨v, .inl hfwd, lbProceed_finishes fin hlast (.inl hfwd)⟩
    | none =>
      cases hf : accessFault s.cfg m.addr (widthBytes w) with
      | some f =>
        rw [lbProceed_faults fin hlast hfwd hf] at hu
        cases hu
      | none =>
        have hv : HasValue s m w (memRead s.mem m.addr (widthBytes w)) := .inr ⟨hfwd, allowed_of_accessFault hf, rfl⟩
        exact ⟨_, hv, lbProceed_finishes fin hlast hv⟩
  · exact .inl ⟨hlast, if_neg hlast⟩

/-- The load-buffer step, where the run goes on: nothing, or the step behind the scan on the entry it works on. -/
theorem lbAdvance_cases {w : Width} (fin : LbEntry → Word → State → State)
    (hu : (lbAdvance w fin t s).status = .running) :
    (lbAdvance w fin t s = s ∧ ((∀ l ∈ s.lb, ¬ Working s t l) ∨
      ∃ l ∈ s.lb, Working s t l ∧ l.cleared = false ∧ disambiguate s l w = .stall)) ∨
    ∃ l m, l ∈ s.lb ∧ Working s t l ∧ (m = l ∧ l.cleared = true ∨
      ∃ fwd, l.cleared = false ∧ disambiguate s l w = clearingScan fwd ∧ m = clearedEntry l fwd) ∧
      lbAdvance w fin t s = lbProceed w fin m s := by
  by_cases hnone : ∀ l ∈ s.lb, ¬ Working s t l
  · exact .inl ⟨lbAdvance_none w fin hnone, .inl hnone⟩
  · obtain ⟨x, hx⟩ : ∃ l, s.lb.find? (fun l => decide (Working s t l)) = some l :=
      Option.isSome_iff_exists.1 (List.find?_isSome.2 (by simpa using hnone))
    obtain ⟨before, after, hsplit⟩ := find_some_split hx
    have hfirst : FirstWhere (Working s t) s.lb before x after :=
      ⟨hsplit.1, by simpa using hsplit.2.1, fun y hy => by simpa using hsplit.2.2 y hy⟩
    have hmem : x ∈ s.lb := List.mem_of_find?_eq_some hx
    rw [lbAdvance_split w fin hfirst] at hu ⊢
    cases hc : x.cleared with
    | true =>
      rw [if_pos rfl]
      exact .inr ⟨x, x, hmem, hfirst.2.1, .inl ⟨rfl, hc⟩, rfl⟩
    | false =>
      rw [hc] at hu
      rw [if_neg Bool.false_ne_true] at hu ⊢
      cases hscan : disambiguate s x w with
      | stall => exact .inl ⟨rfl, .inr ⟨x, hmem, hfirst.2.1, hc, hscan⟩⟩
      | forward v => exact .inr ⟨x, _, hmem, hfirst.2.1, .inr ⟨some v, hc, hscan, rfl⟩, rfl⟩
      | memory => exact .inr ⟨x, _, hmem, hfirst.2.1, .inr ⟨none, hc, hscan, rfl⟩, rfl⟩
      | fault f =>
        rw [hscan] at hu
        cases hu

theorem lbAdvance_work {w : Width} {fin : LbEntry → Word → State → State} (hs : InFlight s)
    (hfin : ∀ v s l, l ∈ s.lb → l.owner = t → robAt s t = some h → ∃ g, FinishWork t l.progress s (fin l v s) h g)
    (e : robAt s t = some h) (hu : (lbAdvance w fin t s).status = .running) :
    ∃ g, LbWork t s (lbAdvance w fin t s) h g := by
  rcases lbAdvance_cases fin hu with ⟨hstill, hwhy⟩ | ⟨l, m, hl, ⟨hown, hless⟩, hm, hproceed⟩
  · rw [hstill]
    refine ⟨h, rfl, rfl, rfl, e, .refl h, fun l hl hown => ⟨l, hl, hown, Nat.le_refl _, fun ho hless => ?_,
      fun _ => (Nat.lt_or_ge _ _).imp_right .inl⟩⟩
    rcases hwhy with hnone | ⟨x, hx, ⟨hxo, _⟩, _, hstall⟩
    · exact absurd ⟨hown, hless⟩ (hnone l hl)
    · rw [disambiguate, hxo, e, ho] at hstall
      cases hstall
  · obtain ⟨hmo, hmp⟩ : m.owner = l.owner ∧ m.progress = l.progress := by
      rcases hm with ⟨rfl, _⟩ | ⟨fwd, _, _, rfl⟩ <;> exact ⟨rfl, rfl⟩
    have placed : m.counted ∈ (setLb m.counted s).lb := mem_updateFirst_const hl (beq_iff_eq.2 hmo.symm)
    rw [hproceed] at hu ⊢
    have one {x : LbEntry} (hx : x ∈ s.lb) (hxo : x.owner = t) : x = l := hs.lb_inj hl hx (hxo.trans hown.symm)
    rcases lbProceed_cases fin hu with ⟨hcount, hp⟩ | ⟨hlast, v, _, hp⟩
    · rw [hp]
      refine ⟨h, rfl, rfl, rfl, e, .refl h, fun x hx hxo => ⟨_, placed, hmo.trans hown, ?_⟩⟩
      cases one hx hxo
      have counted : m.counted.progress = l.progress + 1 := congrArg (· + 1) hmp
      exact ⟨by omega, fun _ _ => counted, fun _ => .inl (by omega)⟩
    · rw [hp]
      obtain ⟨g, w⟩ := hfin v (setLb m.counted s) m.counted placed (hmo.trans hown) e
      refine ⟨g, w.alu, w.md, w.agu, w.atTag, w.stays, fun x hx hxo => ?_⟩
      cases one hx hxo
      obtain ⟨y, hy, hyo, hyp⟩ := w.placed
      have counted : y.progress = l.progress + 1 := hyp.trans (congrArg (· + 1) hmp)
      exact ⟨y, hy, hyo, by omega, fun _ _ => counted, fun hk => .inr (.inr (w.value hk))⟩

/-- The load buffer's work for its own tag. -/
theorem execOp_load_work {o : Op} (hst : s.stage = .load t) (hs : InFlight s) (hx : execOp o s = .next u)
    (e : robAt s t = some h) (ho : h.ins.op = o) (hk : opKind o = .load ∨ opKind o = .amo)
    (hu : u.status = .running) : ∃ g, LbWork t s u h g := by
  subst ho
  cases hop : h.ins.op with
  | nop => rw [hop] at hk; rcases hk with hk | hk <;> cases hk
  | ins i =>
    rw [hop] at hk hx
    obtain ⟨w, hi⟩ := buffered_of_kind hk
    cases (exec_load_buffered hst hi).symm.trans hx
    refine lbAdvance_work hs (fun v a l hl hown ea => ?_) e hu
    rcases hk with hk | hk
    · obtain ⟨w, sign, rd, b, imm, hshape⟩ := loadShape_of_kind hk
      rw [finishOf_load _ hshape]
      exact ⟨h, finishLoad_work w sign v hl hown ea (by rw [hop]; exact hk)⟩
    · rw [finishOf_amo _ hk]
      exact ⟨_, finishAmo_work _ _ v hl hown ea⟩

/-- The load buffer's work for its own tag brings the entry of that tag no farther from its commit. -/
theorem execOp_load_due {o : Op} (hst : s.stage = .load t) (hs : InFlight s) (hlat : 1 ≤ s.cfg.cacheLat)
    (hx : execOp o s = .next u) (e : robAt s t = some h) (ho : h.ins.op = o) (hu : u.status = .running) :
    ∃ g, robAt u t = some g ∧ Stays h g ∧ ∀ k, Due s t h k → Due u t g k := by
  by_cases hk : opKind o = .load ∨ opKind o = .amo
  · obtain ⟨g, w⟩ := execOp_load_work hst hs hx e ho hk hu
    exact ⟨g, w.atTag, w.stays, fun k => w.due (execOp_load hst hx).backendOnly.cfg hlat⟩
  · obtain ⟨hload, hamo⟩ := not_or.1 hk
    have still : u = s ∨ u.status ≠ .running := by
      cases o with
      | nop =>
        cases (show execOp .nop s = .next s from life_load hst _ _ _ _ _).symm.trans hx
        exact .inl rfl
      | ins i =>
        by_cases hr : kindOf i = .refused
        · cases (exec_refused hr).symm.trans hx
          exact .inr (by simp [fetchRefused])
        · cases (exec_load_other hst hload hamo hr).symm.trans hx
          exact .inl rfl
    cases still.resolve_right (absurd hu)
    exact ⟨h, e, .refl h, fun _ => id⟩

end

end Sys2Proof.Machine
end

section
/-! PROOFS. Every entry of the reorder buffer has its work before it or done, over the execute stage; the head's unit brings
it one tick nearer to its commit (70_reset_and_hazards.md R445). -/

namespace Sys2Proof.Machine

/-! ### Who waits for whom -/

/-- An entry waits for older ones only (40_cycle_issue_rename.md R141). -/
def OlderOnly (s : State) : Prop :=
  ∀ e, InPool s e → (e.qj ≠ 0 → e.qj < e.dest) ∧ (e.qk ≠ 0 → e.qk < e.dest)

/-- A store's data comes from an older entry. -/
def OlderData (s : State) : Prop := ∀ t h, robAt s t = some h → h.storeQ ≠ 0 → h.storeQ < t

section

variable {o : Op} {t : Tag} {s u : State}

theorem OlderOnly.of_entries (hs : OlderOnly s)
    (h : ∀ e, InPool u e → ∃ x, InPool s x ∧ e.dest = x.dest ∧ (e.qj = x.qj ∨ e.qj = 0) ∧ (e.qk = x.qk ∨ e.qk = 0)) :
    OlderOnly u := by
  intro e he
  obtain ⟨x, hx, hd, hj, hk⟩ := h e he
  obtain ⟨oj, ok⟩ := hs x hx
  refine ⟨fun h0 => ?_, fun h0 => ?_⟩
  · rw [hd, hj.resolve_right h0]
    exact oj (hj.resolve_right h0 ▸ h0)
  · rw [hd, hk.resolve_right h0]
    exact ok (hk.resolve_right h0 ▸ h0)

theorem OlderData.evolve (hs : OlderData s) (he : RobEvolves s u) : OlderData u := by
  intro q g eg h0
  obtain ⟨h, e, hg⟩ := he.entry q g eg
  have same := hg.storeQ.resolve_right h0
  rw [same] at h0 ⊢
  exact hs q h e h0

/-- What the MULDIV unit leaves in its pool: the entries that were there, one of them with its tick. -/
theorem mem_mdAdvance {lat : Nat} {f : Word → Word → Option Word} {op : DivOp} {e : RsEntry}
    (he : e ∈ (mdAdvance lat f op t s).rsMd) :
    e ∈ s.rsMd ∨ ∃ x ∈ s.rsMd, ∃ n v, e = { x with progress := n, result := v } := by
  unfold mdAdvance at he
  split at he
  · exact .inl he
  · rename_i x hfind
    have hx : x ∈ s.rsMd := List.mem_of_find?_eq_some hfind
    have written {n : Nat} {v : Word} (he : e ∈ (setMd { x with progress := n, result := v } s).rsMd) :
        e ∈ s.rsMd ∨ ∃ x ∈ s.rsMd, ∃ n v, e = { x with progress := n, result := v } :=
      (mem_updateFirst he).imp_right fun ⟨_, _, _, h⟩ => ⟨x, hx, n, v, h⟩
    dsimp only at he
    split at he
    · split at he
      · exact written he
      · exact written (v := x.result) he
    · exact written (v := x.result) he

theorem ExecuteMove.olderOnly (m : ExecuteMove o t s u) (hs : OlderOnly s) : OlderOnly u := by
  have same {x e : RsEntry} (hx : InPool s x) (hd : e.dest = x.dest) (hj : e.qj = x.qj) (hk : e.qk = x.qk) :
      ∃ x, InPool s x ∧ e.dest = x.dest ∧ (e.qj = x.qj ∨ e.qj = 0) ∧ (e.qk = x.qk ∨ e.qk = 0) :=
    ⟨x, hx, hd, .inl hj, .inl hk⟩
  have dropped (v : State) (halu : v.rsAlu = s.rsAlu) (hmd : v.rsMd = s.rsMd) (hagu : v.rsAgu = s.rsAgu) :
      OlderOnly (dropAgu t v) := by
    refine hs.of_entries fun e he => same (x := e) ?_ rfl rfl rfl
    rcases he with he | he | he
    · exact .inl (halu ▸ he)
    · exact .inr (.inl (hmd ▸ he))
    · exact .inr (.inr (hagu ▸ List.mem_of_mem_eraseP he))
  cases m with
  | alu f =>
    refine hs.of_entries ?_
    rintro e (he | he | he)
    · rcases mem_updateFirst he with he | ⟨x, hx, _, rfl⟩
      · exact same (.inl he) rfl rfl rfl
      · exact same (.inl hx) rfl rfl rfl
    · exact same (.inr (.inl he)) rfl rfl rfl
    · exact same (.inr (.inr he)) rfl rfl rfl
  | md lat f op =>
    obtain ⟨halu, hagu, _, _⟩ := mdAdvance_frame lat f op t s
    refine hs.of_entries ?_
    rintro e (he | he | he)
    · exact same (.inl (halu ▸ he)) rfl rfl rfl
    · rcases mem_mdAdvance he with he | ⟨x, hx, n, v, rfl⟩
      · exact same (.inr (.inl he)) rfl rfl rfl
      · exact same (.inr (.inl hx)) rfl rfl rfl
    · exact same (.inr (.inr (hagu ▸ he))) rfl rfl rfl
  | load =>
    unfold aguLoad
    split
    · exact hs
    · exact dropped _ rfl rfl rfl
  | store =>
    unfold aguStore
    split
    · exact hs
    · split
      · exact hs
      · exact dropped _ rfl rfl rfl
  | amo =>
    unfold aguAmo
    split
    · exact hs
    · split
      · exact hs
      · exact dropped _ rfl rfl rfl
  | loadReserved =>
    unfold aguLoadReserved
    split
    · exact hs
    · split
      · exact hs
      · refine hs.of_entries ?_
        rintro e (he | he | he)
        · exact same (.inl he) rfl rfl rfl
        · exact same (.inr (.inl he)) rfl rfl rfl
        · rcases mem_updateFirst he with he | ⟨x, hx, _, rfl⟩
          · exact same (.inr (.inr he)) rfl rfl rfl
          · exact same (.inr (.inr hx)) rfl rfl rfl
  | refused => exact hs

end

/-! ### Everything that is in flight gets done -/

/-- Ticks enough for any entry of the reorder buffer that waits for nothing. -/
def longest (c : Config) : Nat := c.divLat + c.cacheLat + 2

/-- Every entry of the reorder buffer has its work done or before it. -/
def Staffed (s : State) : Prop := ∀ t h, robAt s t = some h → Due s t h (longest s.cfg)

/-- What makes the entries in flight get done, one after the other. -/
structure Roster (s : State) : Prop where
  staffed : Staffed s
  older : OlderOnly s
  data : OlderData s

/-- The invariant of the back end that the units keep. -/
structure Manned (s : State) : Prop extends Roster s where
  delivering : Delivering [] s

section

variable {o : Op} {t : Tag} {s u v w : State} {h g : RobEntry} {k : Nat}

theorem Due.setStage (p : Stage) (hlat : 1 ≤ s.cfg.cacheLat) (d : Due s t h k) : Due { s with stage := p } t h k :=
  d.kept (.refl h) rfl hlat (fun _ he _ => he) (fun _ he _ => he) (fun _ he _ => he) fun _ hl _ => hl

theorem Manned.setStage (p : Stage) (hlat : 1 ≤ s.cfg.cacheLat) (hs : Manned s) : Manned { s with stage := p } :=
  ⟨⟨fun t h e => (hs.staffed t h e).setStage p hlat, hs.older, hs.data⟩, hs.delivering.congr rfl rfl⟩

/-- What one visit of a unit does for the entry of its own tag: it stays, no farther from its commit. -/
def Visited (t : Tag) (s u : State) : Prop :=
  ∀ h, robAt s t = some h → ∃ g, robAt u t = some g ∧ Stays h g ∧ ∀ k, Due s t h k → Due u t g k

theorem Visited.manned (a : Visited t s u) (hs : Manned s) (hlat : 1 ≤ s.cfg.cacheLat) (adv : Advances s u)
    (hcfg : u.cfg = s.cfg) (hkeeps : ∀ q, q ≠ t → KeepsTag q s u) (holder : OlderOnly u) : Manned u := by
  refine ⟨⟨fun q g eg => ?_, holder, hs.data.evolve adv.2⟩, adv.1⟩
  rw [hcfg]
  by_cases hq : q = t
  · subst hq
    obtain ⟨h, e, _⟩ := adv.2.entry q g eg
    obtain ⟨g', eg', _, hdue⟩ := a h e
    cases eg.symm.trans eg'
    exact hdue _ (hs.staffed q h e)
  · have keeps := hkeeps q hq
    rw [keeps.rob] at eg
    exact keeps.due hcfg hlat (hs.staffed q g eg)

/-- A visit of the execute stage: the invariant holds on, and the entry of the tag is no farther from its commit. -/
theorem Manned.execute_visit (hs : Manned s) (hlat : 1 ≤ s.cfg.cacheLat) (hr : s.status = .running)
    (ho : ∀ h, robAt s t = some h → h.ins.op = o) (hx : execAt (.execute t) o s = .next u) (hu : u.status = .running) :
    Manned u ∧ u.cfg = s.cfg ∧ Visited t s u ∧ (∀ q, q ≠ t → KeepsTag q s u) ∧ Advances s u := by
  obtain ⟨w, hw, rfl⟩ := execAt_inv hx
  have m := execOp_execute rfl hw
  have adv := (execAt_execute_sound hs.delivering hr ho hx).1 hu
  have hcfg : w.cfg = s.cfg := m.backendOnly.cfg
  have visited : Visited t s { w with stage := .fetch } := by
    intro h e
    have hin : InFlight { s with stage := .execute t } := hs.delivering.inFlight.congr rfl
    obtain ⟨g, eg, hstay, hdue⟩ := m.due (h := h) hin hlat e (ho h e) hu
    exact ⟨g, eg, hstay, fun k d => (hdue k (d.setStage _ hlat)).setStage _ (hcfg ▸ hlat)⟩
  have keeps (q : Tag) (hq : q ≠ t) : KeepsTag q s { w with stage := .fetch } := by
    obtain ⟨h1, h2, h3, h4, h5⟩ := m.keepsTag hq
    exact ⟨h1, h2, h3, h4, h5⟩
  exact ⟨visited.manned hs hlat adv hcfg keeps (m.olderOnly (s := { s with stage := .execute t }) hs.older), hcfg,
    visited, keeps, adv⟩

/-- The load-buffer step leaves the pools alone. -/
theorem LoadMove.pools (m : LoadMove o t s u) : u.rsAlu = s.rsAlu ∧ u.rsMd = s.rsMd ∧ u.rsAgu = s.rsAgu := by
  have proceeds {wl : Width} {fin : LbEntry → Word → State → State} (l : LbEntry)
      (hfin : ∀ (l : LbEntry) v s, (fin l v s).rsAlu = s.rsAlu ∧ (fin l v s).rsMd = s.rsMd ∧ (fin l v s).rsAgu = s.rsAgu) :
      (lbProceed wl fin l s).rsAlu = s.rsAlu ∧ (lbProceed wl fin l s).rsMd = s.rsMd ∧
        (lbProceed wl fin l s).rsAgu = s.rsAgu := by
    unfold lbProceed
    dsimp only
    split
    · split
      · exact hfin _ _ _
      · split
        · exact ⟨rfl, rfl, rfl⟩
        · exact hfin _ _ _
    · exact ⟨rfl, rfl, rfl⟩
  have advances {wl : Width} {fin : LbEntry → Word → State → State}
      (hfin : ∀ (l : LbEntry) v s, (fin l v s).rsAlu = s.rsAlu ∧ (fin l v s).rsMd = s.rsMd ∧ (fin l v s).rsAgu = s.rsAgu) :
      (lbAdvance wl fin t s).rsAlu = s.rsAlu ∧ (lbAdvance wl fin t s).rsMd = s.rsMd ∧
        (lbAdvance wl fin t s).rsAgu = s.rsAgu := by
    unfold lbAdvance
    split
    · exact ⟨rfl, rfl, rfl⟩
    · split
      · exact proceeds _ hfin
      · split
        · exact ⟨rfl, rfl, rfl⟩
        · exact proceeds _ hfin
        · exact proceeds _ hfin
        · exact ⟨rfl, rfl, rfl⟩
  cases m with
  | load w sign => exact advances fun _ _ _ => ⟨rfl, rfl, rfl⟩
  | amo result new =>
    refine advances fun l v s => ?_
    unfold finishAmo
    dsimp only
    split <;> exact ⟨rfl, rfl, rfl⟩
  | other => exact ⟨rfl, rfl, rfl⟩
  | refused => exact ⟨rfl, rfl, rfl⟩

/-- A visit of the load-buffer step, likewise. -/
theorem Manned.load_visit (hs : Manned s) (hlat : 1 ≤ s.cfg.cacheLat) (hr : s.status = .running)
    (ho : ∀ h, robAt s t = some h → h.ins.op = o) (hx : execAt (.load t) o s = .next u) (hu : u.status = .running) :
    Manned u ∧ u.cfg = s.cfg ∧ Visited t s u ∧ (∀ q, q ≠ t → KeepsTag q s u) ∧ Advances s u := by
  obtain ⟨w, hw, rfl⟩ := execAt_inv hx
  have m := execOp_load rfl hw
  have adv := (execAt_load_sound hs.delivering hr hx).1 hu
  have hcfg : w.cfg = s.cfg := m.backendOnly.cfg
  have visited : Visited t s { w with stage := .fetch } := by
    intro h e
    have hin : InFlight { s with stage := .load t } := hs.delivering.inFlight.congr rfl
    obtain ⟨g, eg, hstay, hdue⟩ := execOp_load_due (h := h) rfl hin hlat hw e (ho h e) hu
    exact ⟨g, eg, hstay, fun k d => (hdue k (d.setStage _ hlat)).setStage _ (hcfg ▸ hlat)⟩
  have keeps (q : Tag) (hq : q ≠ t) : KeepsTag q s { w with stage := .fetch } := by
    obtain ⟨h1, h2, h3, h4, h5⟩ := m.keepsTag hq
    exact ⟨h1, h2, h3, h4, h5⟩
  have holder : OlderOnly { w with stage := .fetch } := by
    obtain ⟨halu, hmd, hagu⟩ := m.pools
    intro e he
    refine hs.older e ?_
    rcases he with he | he | he
    · exact .inl (halu ▸ he)
    · exact .inr (.inl (hmd ▸ he))
    · exact .inr (.inr (hagu ▸ he))
  exact ⟨visited.manned hs hlat adv hcfg keeps holder, hcfg, visited, keeps, adv⟩

end

end Sys2Proof.Machine
end

section
/-! PROOFS. The execute stage of a tick: it keeps every entry's work, and the head's unit does a tick of it. -/

namespace Sys2Proof.Machine

/-! ### A unit's step -/

/-- What a state `v` within a unit's step over `work`, begun at `s`, has. -/
structure Underway (work : List (Tag × Op)) (s v : State) : Prop where
  manned : Manned v
  cfg : v.cfg = s.cfg
  evolves : RobEvolves s v
  known : OpsKnown work v

/-- What one visit of a unit gives (`Manned.execute_visit`, `Manned.load_visit`). -/
def VisitKeeps (stageOf : Tag → Stage) (lat : Nat) : Prop :=
  ∀ (t : Tag) (o : Op) (v w : State), Manned v → lat ≤ v.cfg.cacheLat → v.status = .running →
    (∀ h, robAt v t = some h → h.ins.op = o) → execAt (stageOf t) o v = .next w → w.status = .running →
    Manned w ∧ w.cfg = v.cfg ∧ Visited t v w ∧ (∀ q, q ≠ t → KeepsTag q v w) ∧ Advances v w

theorem execute_visitKeeps : VisitKeeps .execute 1 := fun _ _ _ _ hs hlat hr ho hx hu => hs.execute_visit hlat hr ho hx hu

theorem load_visitKeeps : VisitKeeps .load 1 := fun _ _ _ _ hs hlat hr ho hx hu => hs.load_visit hlat hr ho hx hu

section

variable {stageOf : Tag → Stage} {work : List (Tag × Op)} {s u : State} {t : Tag} {h : RobEntry} {k : Nat}

theorem Underway.start (hs : Manned s) (ho : OpsKnown work s) : Underway work s s :=
  ⟨hs, rfl, .of_eq rfl rfl, ho⟩

/-- A unit's step keeps the invariant, and with it whatever its visits keep. -/
theorem Manned.runEntries {X : State → Prop} (visits : VisitKeeps stageOf 1) (hs : Manned s)
    (hlat : 1 ≤ s.cfg.cacheLat) (hr : s.status = .running) (ho : OpsKnown work s)
    (step : ∀ e ∈ work, ∀ v w, Underway work s v → v.status = .running → execAt (stageOf e.1) e.2 v = .next w →
      w.status = .running → w.cfg = v.cfg → Visited e.1 v w → (∀ q, q ≠ e.1 → KeepsTag q v w) → X v → X w)
    (hX : X s) (hrun : runEntries stageOf work s = .next u) :
    Goes (fun u => Underway work s u ∧ X u) (fun _ => True) u := by
  refine runEntries_induction (P := fun v => Underway work s v ∧ X v) (fun e he v w hvr hv hx => ?_) hr
    ⟨.start hs ho, hX⟩ hrun
  obtain ⟨hun, hXv⟩ := hv
  refine ⟨fun hwr => ?_, fun _ => trivial⟩
  obtain ⟨hm, hcfg, hvisit, hkeeps, hadv⟩ :=
    visits e.1 e.2 v w hun.manned (hun.cfg ▸ hlat) hvr (hun.known e he) hx hwr
  exact ⟨⟨hm, hcfg.trans hun.cfg, hun.evolves.trans hadv.2, hun.known.evolve hadv.2⟩,
    step e he v w hun hvr hx hwr hcfg hvisit hkeeps hXv⟩

/-- The entry of the tag `t`, `h` before, is still there, and due within `k`. -/
def StillDue (t : Tag) (h : RobEntry) (k : Nat) (v : State) : Prop := ∃ g, robAt v t = some g ∧ Stays h g ∧ Due v t g k

theorem StillDue.visited {q : Tag} {v w : State} (d : StillDue t h k v) (hcfg : w.cfg = v.cfg)
    (hlat : 1 ≤ v.cfg.cacheLat) (hvisit : Visited q v w) (hkeeps : ∀ p, p ≠ q → KeepsTag p v w) : StillDue t h k w := by
  obtain ⟨g, eg, hstay, hdue⟩ := d
  by_cases hq : t = q
  · subst hq
    obtain ⟨g', eg', hstay', hdue'⟩ := hvisit g eg
    exact ⟨g', eg', hstay.trans hstay', hdue' k hdue⟩
  · have keeps := hkeeps t hq
    exact ⟨g, keeps.rob.trans eg, hstay, keeps.due hcfg hlat hdue⟩

/-- A unit's step takes no entry farther from its commit. -/
theorem Manned.runEntries_due (visits : VisitKeeps stageOf 1) (hs : Manned s) (hlat : 1 ≤ s.cfg.cacheLat)
    (hr : s.status = .running) (ho : OpsKnown work s) (d : StillDue t h k s)
    (hrun : Machine.runEntries stageOf work s = .next u) :
    Goes (fun u => Underway work s u ∧ StillDue t h k u) (fun _ => True) u :=
  hs.runEntries visits hlat hr ho (fun _ _ _ _ hun _ _ _ hcfg hvisit hkeeps d =>
    d.visited hcfg (hun.cfg ▸ hlat) hvisit hkeeps) d hrun

/-- A unit's step keeps the entries of a tag it does not visit. -/
theorem Manned.runEntries_keepsTag (visits : VisitKeeps stageOf 1) (hs : Manned s) (hlat : 1 ≤ s.cfg.cacheLat)
    (hr : s.status = .running) (ho : OpsKnown work s) (ht : t ∉ work.map (·.1))
    (hrun : Machine.runEntries stageOf work s = .next u) :
    Goes (fun u => Underway work s u ∧ KeepsTag t s u) (fun _ => True) u := by
  refine hs.runEntries visits hlat hr ho (fun e he _ _ _ _ _ _ _ _ hkeeps keeps => ?_) (.refl t s) hrun
  exact keeps.trans (hkeeps t fun h => ht (h ▸ List.mem_map_of_mem he))

/-- A unit's step over distinct tags makes the one visit of the tag `t`: what that visit establishes, and the others keep,
holds behind it. -/
theorem Manned.runEntries_hits {Y : State → Prop} {o : Op} (visits : VisitKeeps stageOf 1) (hlat : 1 ≤ s.cfg.cacheLat)
    (hs : Manned s) (hr : s.status = .running) (ho : OpsKnown work s) (hmem : (t, o) ∈ work)
    (hone : (work.map (·.1)).Nodup)
    (hit : ∀ v w, Manned v → v.cfg = s.cfg → RobEvolves s v → KeepsTag t s v → v.status = .running →
      execAt (stageOf t) o v = .next w → w.status = .running → Y w)
    (kept : ∀ v w, v.cfg = s.cfg → w.cfg = v.cfg → KeepsTag t v w → Y v → Y w)
    (hrun : Machine.runEntries stageOf work s = .next u) :
    Goes (fun u => Manned u ∧ u.cfg = s.cfg ∧ RobEvolves s u ∧ Y u) (fun _ => True) u := by
  induction work generalizing s with
  | nil => cases hmem
  | cons e es ih =>
    have known : OpsKnown es s := fun x hx => ho x (List.mem_cons_of_mem _ hx)
    obtain ⟨hfresh, hrest⟩ := List.nodup_cons.1 (show (e.1 :: es.map (·.1)).Nodup from hone)
    refine andThen_goes (C := fun v => Manned v ∧ v.cfg = s.cfg ∧ RobEvolves s v ∧ (e.1 ≠ t → KeepsTag t s v) ∧
      (e.1 = t → Y v)) (fun v hv => ⟨fun hvr => ?_, fun _ => trivial⟩) (fun v hvr hv hx => ?_) hrun
    · obtain ⟨hm, hcfg, _, hkeeps, hadv⟩ := visits e.1 e.2 s v hs hlat hr (ho e List.mem_cons_self) hv hvr
      refine ⟨hm, hcfg, hadv.2, fun h => hkeeps t (Ne.symm h), fun h => ?_⟩
      rcases List.mem_cons.1 hmem with rfl | hmem
      · exact hit s v hs rfl (.of_eq rfl rfl) (.refl t s) hr hv hvr
      · exact absurd (h ▸ List.mem_map_of_mem hmem) hfresh
    · obtain ⟨hm, hcfg, hevolves, hkeeps, hY⟩ := hv
      by_cases het : e.1 = t
      · refine (hm.runEntries_keepsTag visits (hcfg ▸ hlat) hvr (known.evolve hevolves) (het ▸ hfresh) hx).imp ?_
        rintro ⟨hun, keeps⟩
        exact ⟨hun.manned, hun.cfg.trans hcfg, hevolves.trans hun.evolves, kept v u hcfg hun.cfg keeps (hY het)⟩
      · have hin : (t, o) ∈ es := (List.mem_cons.1 hmem).resolve_left fun h => het (congrArg Prod.fst h).symm
        refine (ih (hcfg ▸ hlat) hm hvr (known.evolve hevolves) hin hrest (fun x w hxm hxc hxe hxk => ?_)
          (fun x w hxc => kept x w (hxc.trans hcfg)) hx).imp ?_
        · exact hit x w hxm (hxc.trans hcfg) (hevolves.trans hxe) ((hkeeps het).trans hxk)
        · rintro ⟨hum, huc, hue, hYu⟩
          exact ⟨hum, huc.trans hcfg, hevolves.trans hue, hYu⟩

end

/-! ### The head's unit -/

section

variable {s u v w : State} {t : Tag} {o : Op} {h g : RobEntry} {k : Nat}

/-- The entry at the head has its operands: it waits for older entries only, and there are none. -/
theorem Manned.head_ready {rest : List Tag} (hs : Manned s) (hhead : robTags s = t :: rest) {e : RsEntry}
    (he : InPool s e) (hd : e.dest = t) : e.ready = true := by
  have first {q : Tag} (hq : ∃ h, robAt s q = some h) (hlt : q < t) : False := by
    have order := ((tagsInOrder_iff s).1 hs.delivering.inFlight.order).1
    have mem := mem_robTags_iff.2 hq
    rw [hhead] at order mem
    rcases List.mem_cons.1 mem with rfl | hrest
    · exact Nat.lt_irrefl _ hlt
    · exact Nat.lt_asymm hlt ((List.pairwise_cons.1 order).1 q hrest)
  obtain ⟨oj, ok⟩ := hs.older e he
  have produced {q : Tag} (hq : q = e.qj ∨ q = e.qk) (h0 : q ≠ 0) : ∃ h, robAt s q = some h := by
    obtain ⟨h, eh, _⟩ := hs.delivering.announced q (.inl ⟨e, he, hq⟩) h0
    exact ⟨h, eh⟩
  have hj : e.qj = 0 := Decidable.byContradiction fun h0 => first (produced (.inl rfl) h0) (hd ▸ oj h0)
  have hk : e.qk = 0 := Decidable.byContradiction fun h0 => first (produced (.inr rfl) h0) (hd ▸ ok h0)
  simp [RsEntry.ready, hj, hk]

/-- The scan of the head's load finds nothing older. -/
theorem head_older {rest : List Tag} (hhead : robTags s = t :: rest) : olderThan s t = [] := by
  cases hrob : s.rob with
  | nil => simp [robTags, hrob] at hhead
  | cons h younger =>
    have ht : h.tag = t := by
      rw [robTags, hrob] at hhead
      exact (List.cons.inj hhead).1
    simp [olderThan, hrob, ht]

end

/-! ### One visit at the head -/

section

variable {s u : State} {t : Tag} {o : Op} {h : RobEntry} {k : Nat}

theorem execOp_nop_execute (hs : s.stage = .execute t) :
    execOp .nop s = .next (aluEvaluate (fun _ _ _ => 0) t s) :=
  life_execute hs _ _ _ _ _

theorem execAt_alu (hk : AluKind o) (hx : execAt (.execute t) o s = .next u) :
    ∃ f, u.rsAlu = (aluEvaluate f t s).rsAlu ∧ u.rob = s.rob := by
  obtain ⟨v, hv, rfl⟩ := execAt_inv hx
  cases o with
  | nop =>
    cases (execOp_nop_execute rfl).symm.trans hv
    exact ⟨fun _ _ _ => 0, rfl, rfl⟩
  | ins i =>
    obtain ⟨f, hf⟩ := exec_execute_alu (s := { s with stage := .execute t }) rfl hk
    cases hf.symm.trans hv
    exact ⟨f, rfl, rfl⟩

theorem mdAdvance_setStage (p : Stage) (lat : Nat) (f : Word → Word → Option Word) (op : DivOp) (t : Tag) (s : State) :
    (mdAdvance lat f op t { s with stage := p }).rsMd = (mdAdvance lat f op t s).rsMd := by
  unfold mdAdvance
  dsimp only
  split
  · rfl
  · split
    · split <;> rfl
    · rfl

theorem execAt_md (hk : MdKind o) (hx : execAt (.execute t) o s = .next u) :
    ∃ f op, u.rsMd = (mdAdvance (latency s.cfg o) f op t s).rsMd ∧ u.rob = s.rob := by
  obtain ⟨v, hv, rfl⟩ := execAt_inv hx
  have advanced {lat : Nat} {f : Word → Word → Option Word} {op : DivOp}
      (hlat : latency s.cfg o = lat) (e : v = mdAdvance lat f op t { s with stage := .execute t }) :
      ∃ f op, v.rsMd = (mdAdvance (latency s.cfg o) f op t s).rsMd ∧ v.rob = s.rob := by
    subst hlat e
    exact ⟨f, op, mdAdvance_setStage _ _ _ _ _ _, (mdAdvance_frame _ _ _ _ _).2.2.2⟩
  cases o with
  | nop => rcases hk with hk | hk <;> cases hk
  | ins i =>
    rcases hk with hk | hk
    · obtain ⟨f, hf⟩ := exec_execute_mul (s := { s with stage := .execute t }) rfl hk
      cases hf.symm.trans hv
      exact advanced (latency_mul s.cfg hk) rfl
    · obtain ⟨op, hop⟩ := divOpOf_of_kind hk
      cases (exec_execute_div (s := { s with stage := .execute t }) rfl hop).symm.trans hv
      exact advanced (latency_div s.cfg hk) rfl

/-- The op goes to address generation (30_encoding.md R110). -/
def AguKind (o : Op) : Prop :=
  opKind o = .loadReserved ∨ (∃ w, opKind o = .store w) ∨ opKind o = .load ∨ opKind o = .amo

/-- Address generation does its work for an entry that is ready. -/
theorem execAt_agu (hk : AguKind o) (e : robAt s t = some h) (ho : h.ins.op = o)
    (hready : ∃ e ∈ s.rsAgu, e.dest = t ∧ e.ready = true ∧ e.progress = 0) (hx : execAt (.execute t) o s = .next u) :
    ∃ v g, u = { v with stage := .fetch } ∧ robAt v t = some g ∧ Stays h g ∧ Generated v t g := by
  obtain ⟨v, hv, rfl⟩ := execAt_inv hx
  obtain ⟨x, hxm, hd, hr, hp⟩ := hready
  obtain ⟨y, hy⟩ := aguEntry_of_ready (s := { s with stage := .execute t }) hxm hd hr hp
  have done {g : RobEntry} (w : AguWork t { s with stage := .execute t } v h g) :
      ∃ x g, { v with stage := .fetch } = { x with stage := .fetch } ∧ robAt x t = some g ∧ Stays h g ∧
        Generated x t g := by
    refine ⟨v, g, rfl, w.entry, w.stays, w.work.resolve_left ?_⟩
    rintro ⟨hnone, _⟩
    cases hnone.symm.trans hy
  subst ho
  cases hop : h.ins.op with
  | nop => rw [hop] at hk; rcases hk with hk | ⟨w, hk⟩ | hk | hk <;> cases hk
  | ins i =>
    rw [hop] at hk hv
    have kind {c : Kind} (hc : kindOf i = c) : opKind h.ins.op = c := by rw [hop]; exact hc
    rcases hk with hk | ⟨w, hk⟩ | hk | hk
    · cases (exec_execute_loadReserved rfl hk).symm.trans hv
      obtain ⟨g, w⟩ := aguLoadReserved_own (s := { s with stage := .execute t }) e (kind hk)
      exact done w
    · cases (exec_execute_store rfl hk).symm.trans hv
      obtain ⟨g, w⟩ := aguStore_own (s := { s with stage := .execute t }) e (kind hk)
      exact done w
    · cases (exec_execute_load rfl hk).symm.trans hv
      exact done (aguLoad_own (s := { s with stage := .execute t }) e (kind hk))
    · cases (exec_execute_amo rfl hk).symm.trans hv
      obtain ⟨g, w⟩ := aguAmo_own (s := { s with stage := .execute t }) e (kind hk)
      exact done w

/-- The load buffer counts a tick for the head's entry. -/
theorem execAt_lb {rest : List Tag} (hs : InFlight s) (hhead : robTags s = t :: rest)
    (hk : opKind o = .load ∨ opKind o = .amo) (e : robAt s t = some h) (ho : h.ins.op = o) {l : LbEntry} (hl : l ∈ s.lb)
    (hown : l.owner = t) (hless : l.progress < s.cfg.cacheLat) (hx : execAt (.load t) o s = .next u)
    (hu : u.status = .running) :
    ∃ g, robAt u t = some g ∧ Stays h g ∧ ∃ x ∈ u.lb, x.owner = t ∧ x.progress = l.progress + 1 ∧
      (opKind g.ins.op = .amo → x.progress < s.cfg.cacheLat ∨ g.valueReady = true) := by
  obtain ⟨v, hv, rfl⟩ := execAt_inv hx
  have hin : InFlight { s with stage := .load t } := hs.congr rfl
  obtain ⟨g, w⟩ := execOp_load_work (h := h) rfl hin hv e ho hk hu
  obtain ⟨x, hxm, hxo, _, hstep, hamo⟩ := w.work l hl hown
  refine ⟨g, w.atTag, w.stays, x, hxm, hxo, hstep (head_older (s := { s with stage := .load t }) hhead) hless,
    fun hg => ?_⟩
  rcases hamo hg with hlt | hge | hv
  · exact .inl hlt
  · exact absurd hge (Nat.not_le.2 hless)
  · exact .inr hv

end

end Sys2Proof.Machine
end

section
/-! PROOFS. The execute stage takes the head one tick nearer to its commit (40_cycle_issue_rename.md R135;
70_reset_and_hazards.md R445). -/

namespace Sys2Proof.Machine

/-- What each unit's step establishes from what the one before it established. -/
theorem executeStage_goes {A B C D S : State → Prop} {s u : State} (alu : ∀ a, aluStep s = .next a → Goes A S a)
    (md : ∀ a b, a.status = .running → A a → mdStep a = .next b → Goes B S b)
    (agu : ∀ b c, b.status = .running → B b → aguStep b = .next c → Goes C S c)
    (lb : ∀ c d, c.status = .running → C c → lbStep c = .next d → Goes D S d) (h : executeStage s = .next u) :
    Goes D S u :=
  andThen_goes (fun c hc => andThen_goes (fun b hb => andThen_goes alu (fun a hr ha hx => md a b hr ha hx) hb)
    (fun b hr hb hx => agu b c hr hb hx) hc) (fun c hr hc hx => lb c u hr hc hx) h

/-! ### The tags a unit's step visits -/

section

variable {s : State} {t : Tag}

theorem poolWork_tags (es : List RsEntry) : (poolWork es).map (·.1) = es.map (·.dest) := by
  simp [poolWork, Function.comp_def]

theorem lbWork_tags (ls : List LbEntry) : (ls.map fun l => (l.owner, l.ins.op)).map (·.1) = ls.map (·.owner) := by
  simp [Function.comp_def]

/-- A tag is visited by one unit only, and there once. -/
structure VisitsOnce (s : State) : Prop where
  alu : (s.rsAlu.map (·.dest)).Nodup
  md : (s.rsMd.map (·.dest)).Nodup
  agu : (s.rsAgu.map (·.dest)).Nodup
  lb : (s.lb.map (·.owner)).Nodup
  md_alu : ∀ e ∈ s.rsMd, e.dest ∉ s.rsAlu.map (·.dest)
  agu_alu : ∀ e ∈ s.rsAgu, e.dest ∉ s.rsAlu.map (·.dest)
  agu_md : ∀ e ∈ s.rsAgu, e.dest ∉ s.rsMd.map (·.dest)
  lb_alu : ∀ l ∈ s.lb, l.owner ∉ s.rsAlu.map (·.dest)
  lb_md : ∀ l ∈ s.lb, l.owner ∉ s.rsMd.map (·.dest)
  lb_agu : ∀ l ∈ s.lb, l.owner ∉ s.rsAgu.map (·.dest)

theorem InFlight.visitsOnce (hs : InFlight s) : VisitsOnce s := by
  have nodup := hs.oneUnit
  rw [units_tags] at nodup
  obtain ⟨pools, lb, poolsLb⟩ := List.nodup_append.1 nodup
  obtain ⟨aluMd, agu, aluMdAgu⟩ := List.nodup_append.1 pools
  obtain ⟨alu, md, aluMd⟩ := List.nodup_append.1 aluMd
  have pool {e : RsEntry} (he : e ∈ s.rsAgu) : e.dest ∈ s.rsAgu.map (·.dest) := List.mem_map_of_mem he
  have owner {l : LbEntry} (hl : l ∈ s.lb) : l.owner ∈ s.lb.map (·.owner) := List.mem_map_of_mem hl
  exact ⟨alu, md, agu, lb, fun e he h => aluMd _ h _ (List.mem_map_of_mem he) rfl,
    fun e he h => aluMdAgu _ (List.mem_append_left _ h) _ (pool he) rfl,
    fun e he h => aluMdAgu _ (List.mem_append_right _ h) _ (pool he) rfl,
    fun l hl h => poolsLb _ (List.mem_append_left _ (List.mem_append_left _ h)) _ (owner hl) rfl,
    fun l hl h => poolsLb _ (List.mem_append_left _ (List.mem_append_right _ h)) _ (owner hl) rfl,
    fun l hl h => poolsLb _ (List.mem_append_right _ h) _ (owner hl) rfl⟩

end

/-! ### Before, at and behind the head's unit -/

/-- Within the execute stage: nothing has been done for the tag `t` yet. -/
structure Untouched (t : Tag) (s v : State) : Prop where
  manned : Manned v
  cfg : v.cfg = s.cfg
  evolves : RobEvolves s v
  keeps : KeepsTag t s v

/-- Within the execute stage: the entry of the tag `t`, `h` before, is due within `k`. -/
structure Nearer (t : Tag) (h : RobEntry) (k : Nat) (s v : State) : Prop where
  manned : Manned v
  cfg : v.cfg = s.cfg
  due : StillDue t h k v

/-- Within the execute stage: the memory access of the tag `t`, `h` before, is in the load buffer with the progress
`p`. -/
structure InBuffer (t : Tag) (h : RobEntry) (p : Nat) (s v : State) : Prop where
  manned : Manned v
  cfg : v.cfg = s.cfg
  evolves : RobEvolves s v
  present : ∃ g, robAt v t = some g ∧ Stays h g ∧ (opKind g.ins.op = .amo → g.addrReady = true) ∧
    ∃ l ∈ v.lb, l.owner = t ∧ l.progress = p

section

variable {stageOf : Tag → Stage} {work : List (Tag × Op)} {s u v w : State} {t : Tag} {o : Op} {h g : RobEntry} {k p : Nat}

theorem Untouched.refl (t : Tag) (hs : Manned s) : Untouched t s s := ⟨hs, rfl, .of_eq rfl rfl, .refl t s⟩

theorem Untouched.unit (visits : VisitKeeps stageOf 1) (hlat : 1 ≤ s.cfg.cacheLat) (hv : Untouched t s v)
    (hr : v.status = .running) (ho : OpsKnown work v) (ht : t ∉ work.map (·.1))
    (hx : runEntries stageOf work v = .next u) : Goes (Untouched t s) (fun _ => True) u :=
  (hv.manned.runEntries_keepsTag visits (hv.cfg ▸ hlat) hr ho ht hx).imp fun ⟨hun, keeps⟩ =>
    ⟨hun.manned, hun.cfg.trans hv.cfg, hv.evolves.trans hun.evolves, hv.keeps.trans keeps⟩

theorem Nearer.unit (visits : VisitKeeps stageOf 1) (hlat : 1 ≤ s.cfg.cacheLat) (hv : Nearer t h k s v)
    (hr : v.status = .running) (ho : OpsKnown work v) (hx : runEntries stageOf work v = .next u) :
    Goes (Nearer t h k s) (fun _ => True) u :=
  (hv.manned.runEntries_due visits (hv.cfg ▸ hlat) hr ho hv.due hx).imp fun ⟨hun, hdue⟩ =>
    ⟨hun.manned, hun.cfg.trans hv.cfg, hdue⟩

theorem StillDue.keepsTag (hcfg : w.cfg = v.cfg) (hlat : 1 ≤ v.cfg.cacheLat) (keeps : KeepsTag t v w)
    (d : StillDue t h k v) : StillDue t h k w := by
  obtain ⟨g, eg, hstay, hdue⟩ := d
  exact ⟨g, keeps.rob.trans eg, hstay, keeps.due hcfg hlat hdue⟩

/-- The visit of a tag's own unit: what it establishes, and the visits of the others keep, holds behind the unit's step. -/
theorem Untouched.hits {Y : State → Prop} (visits : VisitKeeps stageOf 1) (hlat : 1 ≤ s.cfg.cacheLat)
    (hv : Untouched t s v) (hr : v.status = .running) (ho : OpsKnown work v) (hmem : (t, o) ∈ work)
    (hone : (work.map (·.1)).Nodup)
    (hit : ∀ v w, Untouched t s v → (∀ h, robAt v t = some h → h.ins.op = o) → execAt (stageOf t) o v = .next w →
      w.status = .running → w.cfg = s.cfg → Y w)
    (kept : ∀ v w, v.cfg = s.cfg → w.cfg = s.cfg → KeepsTag t v w → Y v → Y w)
    (hx : runEntries stageOf work v = .next u) :
    Goes (fun u => Manned u ∧ u.cfg = s.cfg ∧ RobEvolves s u ∧ Y u) (fun _ => True) u := by
  refine (hv.manned.runEntries_hits (Y := Y) visits (hv.cfg ▸ hlat) hr ho hmem hone
    (fun a b ha hac hae hak har hab hbr => ?_)
    (fun a b hac hbc => kept a b (hac.trans hv.cfg) ((hbc.trans hac).trans hv.cfg)) hx).imp ?_
  · have known := ho.evolve hae (t, o) hmem
    have hcfg : a.cfg = s.cfg := hac.trans hv.cfg
    have hbc := (visits t o a b ha (hcfg ▸ hlat) har known hab hbr).2.1
    exact hit a b ⟨ha, hcfg, hv.evolves.trans hae, hv.keeps.trans hak⟩ known hab hbr (hbc.trans hcfg)
  · rintro ⟨hum, huc, hue, hY⟩
    exact ⟨hum, huc.trans hv.cfg, hv.evolves.trans hue, hY⟩

/-- What a visit has made of the head's entry, the rest of its unit's step keeps. -/
theorem StillDue.kept (hcfg : w.cfg = v.cfg) (hlat : 1 ≤ v.cfg.cacheLat) (keeps : KeepsTag t v w)
    (d : StillDue t h k v) : StillDue t h k w := by
  obtain ⟨g, eg, hstay, hdue⟩ := d
  exact ⟨g, keeps.rob.trans eg, hstay, keeps.due hcfg hlat hdue⟩

/-- The unit that has the entry of the tag `t` makes it due sooner. -/
theorem Untouched.nearer (visits : VisitKeeps stageOf 1) (hlat : 1 ≤ s.cfg.cacheLat) (hv : Untouched t s v)
    (hr : v.status = .running) (ho : OpsKnown work v) (hmem : (t, o) ∈ work) (hone : (work.map (·.1)).Nodup)
    (hit : ∀ v w, Untouched t s v → (∀ h, robAt v t = some h → h.ins.op = o) → execAt (stageOf t) o v = .next w →
      w.status = .running → w.cfg = s.cfg → StillDue t h k w)
    (hx : runEntries stageOf work v = .next u) : Goes (Nearer t h k s) (fun _ => True) u :=
  (hv.hits visits hlat hr ho hmem hone hit
    (fun _ _ hac hbc keeps => .kept (hbc.trans hac.symm) (hac ▸ hlat) keeps) hx).imp
    fun ⟨hum, huc, _, hd⟩ => ⟨hum, huc, hd⟩

/-! ### The units' work for the head -/

/-- The ALU evaluates the head's entry. -/
theorem Untouched.alu_due {rest : List Tag} (hv : Untouched t s v)
    (hhead : robTags s = t :: rest) (eh : robAt s t = some h) (hk : AluKind o) (ho : h.ins.op = o) {e : RsEntry}
    (he : e ∈ s.rsAlu) (hd : e.dest = t) (h2 : 2 ≤ k) (hx : execAt (.execute t) o v = .next w) :
    StillDue t h k w := by
  have hev := hv.keeps.alu e he hd
  have hready := hv.manned.head_ready (hv.evolves.tags.trans hhead) (.inl hev) hd
  obtain ⟨f, halu, hrob⟩ := execAt_alu hk hx
  obtain ⟨x, hxm, hxd, hp⟩ := aluEvaluate_own f hev hd
  exact ⟨h, ((robAt_congr hrob t).trans hv.keeps.rob).trans eh, .refl h,
    .alu x (halu ▸ hxm) hxd (ho ▸ hk) h2 fun h0 => absurd h0 (hp (.inr hready))⟩

/-- The MULDIV unit counts a tick for the head's entry. -/
theorem Untouched.md_due {rest : List Tag} (hv : Untouched t s v)
    (hhead : robTags s = t :: rest) (eh : robAt s t = some h) (hk : MdKind o) (ho : h.ins.op = o) {e : RsEntry}
    (he : e ∈ s.rsMd) (hd : e.dest = t) (hless : e.progress < latency s.cfg o)
    (hdue : latency s.cfg o + 2 ≤ k + 1 + e.progress) (hcfg : w.cfg = s.cfg)
    (hx : execAt (.execute t) o v = .next w) : StillDue t h k w := by
  have hev := hv.keeps.md e he hd
  have hready := hv.manned.head_ready (hv.evolves.tags.trans hhead) (.inr (.inl hev)) hd
  obtain ⟨f, op, hmd, hrob⟩ := execAt_md hk hx
  rw [hv.cfg] at hmd
  obtain ⟨x, hxm, hxd, _, hp⟩ := mdAdvance_own (latency s.cfg o) f op
    (fun y hy hyd => hv.manned.delivering.inFlight.md_inj hev hy hyd) hev hd
  have counted := hp hready hless
  exact ⟨h, ((robAt_congr hrob t).trans hv.keeps.rob).trans eh, .refl h,
    .md x (hmd ▸ hxm) hxd (ho ▸ hk) (by omega) (by rw [hcfg, ho]; omega)⟩

/-- Address generation does its work for the head's entry. -/
theorem Untouched.generated {rest : List Tag} (hv : Untouched t s v)
    (hhead : robTags s = t :: rest) (eh : robAt s t = some h) (hk : AguKind o) (ho : h.ins.op = o) {e : RsEntry}
    (he : e ∈ s.rsAgu) (hd : e.dest = t) (hp : e.progress = 0) (hx : execAt (.execute t) o v = .next w) :
    ∃ v g, w = { v with stage := .fetch } ∧ robAt v t = some g ∧ Stays h g ∧ Generated v t g := by
  have hev := hv.keeps.agu e he hd
  have hready := hv.manned.head_ready (hv.evolves.tags.trans hhead) (.inr (.inr hev)) hd
  exact execAt_agu hk (hv.keeps.rob.trans eh) ho ⟨e, hev, hd, hready, hp⟩ hx

/-- A store or LR.W is due sooner by it. -/
theorem Untouched.agu_due {rest : List Tag} (hlat : 1 ≤ s.cfg.cacheLat) (hv : Untouched t s v)
    (hhead : robTags s = t :: rest) (eh : robAt s t = some h)
    (hk : opKind o = .loadReserved ∨ (∃ w, opKind o = .store w) ∧ Sourced h) (ho : h.ins.op = o) {e : RsEntry}
    (he : e ∈ s.rsAgu) (hd : e.dest = t) (hp : e.progress = 0) (h2 : 2 ≤ k) (hcfg : w.cfg = s.cfg)
    (hx : execAt (.execute t) o v = .next w) : StillDue t h k w := by
  have hagu : AguKind o := hk.imp_right fun h => .inl h.1
  obtain ⟨a, g, rfl, eg, hstay, hgen⟩ := hv.generated hhead eh hagu ho he hd hp hx
  have hop : g.ins.op = o := (congrArg Decoded.op hstay.ins).trans ho
  have hac : a.cfg = s.cfg := hcfg
  refine ⟨g, eg, hstay, Due.setStage _ (hac ▸ hlat) (hgen.due (hac ▸ hlat) (fun ⟨w, hw⟩ => ?_) h2 fun hbuf => ?_)⟩
  · rcases hk with hk | ⟨_, hq⟩
    · rw [hop, hk] at hw
      cases hw
    · exact hstay.source hq
  · rw [hop] at hbuf
    rcases hk with hk | ⟨⟨w, hk⟩, _⟩ <;> simp [hk] at hbuf

/-- A load or an AMO is in the load buffer after it. -/
theorem Untouched.agu_buffered {rest : List Tag} (hv : Untouched t s v)
    (hhead : robTags s = t :: rest) (eh : robAt s t = some h) (hk : opKind o = .load ∨ opKind o = .amo)
    (ho : h.ins.op = o) {e : RsEntry} (he : e ∈ s.rsAgu) (hd : e.dest = t) (hp : e.progress = 0)
    (hx : execAt (.execute t) o v = .next w) :
    ∃ g, robAt w t = some g ∧ Stays h g ∧ (opKind g.ins.op = .amo → g.addrReady = true) ∧
      ∃ l ∈ w.lb, l.owner = t ∧ l.progress = 0 := by
  obtain ⟨a, g, rfl, eg, hstay, hgen⟩ := hv.generated hhead eh (.inr (.inr hk)) ho he hd hp hx
  have hop : g.ins.op = o := (congrArg Decoded.op hstay.ins).trans ho
  rw [← hop] at hk
  refine ⟨g, eg, hstay, ?_⟩
  cases hgen with
  | reserved x hx hd ho => simp [ho] at hk
  | addressed w ho => simp [ho] at hk
  | buffered l hl hown ho hp => exact ⟨by simp [ho], l, hl, hown, hp⟩
  | atomic l hl hown ho ha hp => exact ⟨fun _ => ha, l, hl, hown, hp⟩

/-- The load buffer counts a tick for the head's entry. -/
theorem InBuffer.due {rest : List Tag} (hv : InBuffer t h p s v) (hlat : 1 ≤ s.cfg.cacheLat)
    (hhead : robTags s = t :: rest) (hk : opKind o = .load ∨ opKind o = .amo)
    (ho : h.ins.op = o) (hless : p < s.cfg.cacheLat) (hdue : s.cfg.cacheLat + 2 ≤ k + 1 + p) (hr : v.status = .running)
    (hx : lbStep v = .next u) : Goes (Nearer t h k s) (fun _ => True) u := by
  obtain ⟨g, eg, hstay, haddr, l, hl, hown, hlp⟩ := hv.present
  have hop : g.ins.op = o := (congrArg Decoded.op hstay.ins).trans ho
  have inFlight := hv.manned.delivering.inFlight
  have hins : l.ins.op = o := by
    obtain ⟨x, ex, hlins, _⟩ := inFlight.lb_owner hl
    rw [hown, eg] at ex
    cases ex
    rw [← hlins, hop]
  have hmem : (t, o) ∈ v.lb.map fun l => (l.owner, l.ins.op) := List.mem_map.2 ⟨l, hl, by rw [hown, hins]⟩
  have hone := inFlight.visitsOnce.lb
  rw [← lbWork_tags] at hone
  refine ((Untouched.refl t hv.manned).hits (Y := StillDue t h k) load_visitKeeps (hv.cfg ▸ hlat) hr inFlight.lbWork_known
    hmem hone (fun a b ha _ hab hbr hbc => ?_)
    (fun _ _ hac hbc keeps => .kept (hbc.trans hac.symm) (by rwa [hac, hv.cfg]) keeps) hx).imp ?_
  · have hac : a.cfg = s.cfg := ha.cfg.trans hv.cfg
    have hbs : b.cfg = s.cfg := hbc.trans hv.cfg
    obtain ⟨g', eg', hstay', x, hxm, hxo, hxp, hval⟩ := execAt_lb ha.manned.delivering.inFlight
      (ha.evolves.tags.trans (hv.evolves.tags.trans hhead)) hk (ha.keeps.rob.trans eg) hop
      (ha.keeps.lb l hl hown) hown (by rw [hac, hlp]; exact hless) hab hbr
    have hop' : g'.ins.op = o := (congrArg Decoded.op hstay'.ins).trans hop
    refine ⟨g', eg', hstay.trans hstay', ?_⟩
    rcases hk with hload | hamo
    · exact .load x hxm hxo (hop' ▸ hload) (by omega) (by rw [hbs]; omega)
    · have ready := hstay'.addr (haddr (hop ▸ hamo))
      rcases hval (hop' ▸ hamo) with hlt | hv
      · exact .atomic x hxm hxo (hop' ▸ hamo) ready (by rw [hbs, ← hac]; exact hlt) (by rw [hbs]; omega)
      · exact .holds ⟨storeWidth_atomic (hop' ▸ hamo), ready, .inl hv⟩ (by omega)
  · rintro ⟨hum, huc, _, hd⟩
    exact ⟨hum, huc.trans hv.cfg, hd⟩

end

/-! ### The whole stage -/

section

variable {s u : State} {t : Tag} {h : RobEntry} {k : Nat}

/-- A unit's step takes no entry farther from its commit. -/
theorem Nearer.unitStep {v w : State} (hv : Nearer t h k s v) (hlat : 1 ≤ s.cfg.cacheLat) (hr : v.status = .running)
    (hx : aluStep v = .next w ∨ mdStep v = .next w ∨ aguStep v = .next w ∨ lbStep v = .next w) :
    Goes (Nearer t h k s) (fun _ => True) w := by
  have inFlight := hv.manned.delivering.inFlight
  rcases hx with hx | hx | hx | hx
  · exact hv.unit execute_visitKeeps hlat hr (inFlight.poolWork_known fun _ => .inl) hx
  · exact hv.unit execute_visitKeeps hlat hr (inFlight.poolWork_known fun _ he => .inr (.inl he)) hx
  · exact hv.unit execute_visitKeeps hlat hr (inFlight.poolWork_known fun _ he => .inr (.inr he)) hx
  · exact hv.unit load_visitKeeps hlat hr inFlight.lbWork_known hx

/-- Nor does the execute stage. -/
theorem Nearer.executeStage {v : State} (hv : Nearer t h k s v) (hlat : 1 ≤ s.cfg.cacheLat) (hr : v.status = .running)
    (hx : executeStage v = .next u) : Goes (Nearer t h k s) (fun _ => True) u :=
  executeStage_induction (fun _ _ har ha hab => ha.unitStep hlat har hab) hr hv hx

/-- A pool's step passes a tag that is not in the pool by. -/
theorem Untouched.pool {v w : State} {es : List RsEntry} (hv : Untouched t s v) (hlat : 1 ≤ s.cfg.cacheLat)
    (hr : v.status = .running) (hes : ∀ e ∈ es, InPool v e) (ht : t ∉ es.map (·.dest))
    (hx : runEntries .execute (poolWork es) v = .next w) : Goes (Untouched t s) (fun _ => True) w :=
  hv.unit execute_visitKeeps hlat hr (hv.manned.delivering.inFlight.poolWork_known hes) (poolWork_tags es ▸ ht) hx

/-- The entry of a tag names the instruction of the reorder buffer. -/
theorem Manned.mem_poolWork (hs : Manned s) {es : List RsEntry} (hes : ∀ e ∈ es, InPool s e) {e : RsEntry} (he : e ∈ es)
    (hd : e.dest = t) (eh : robAt s t = some h) : (t, h.ins.op) ∈ poolWork es := by
  obtain ⟨g, eg, hins, _⟩ := hs.delivering.inFlight.pool_owner (hes e he)
  rw [hd, eh] at eg
  cases eg
  exact List.mem_map.2 ⟨e, he, by rw [hd, hins]⟩

theorem harvestSet_none (hnone : harvestSet s = []) : (∀ e ∈ s.rsAlu, e.progress = 0) ∧
    (∀ e ∈ s.rsMd, e.progress < latency s.cfg e.ins.op) ∧
    (∀ e ∈ s.rsAgu, isLoadReserved e.ins.op = true → e.progress = 0) ∧ ∀ l ∈ s.lb, l.progress < s.cfg.cacheLat := by
  simpa [harvestSet, aluDone, mdDone, aguDone, lbDone, List.filter_eq_nil_iff, and_assoc] using hnone

theorem alu_inPool (e : RsEntry) (he : e ∈ s.rsAlu) : InPool s e := .inl he
theorem md_inPool (e : RsEntry) (he : e ∈ s.rsMd) : InPool s e := .inr (.inl he)
theorem agu_inPool (e : RsEntry) (he : e ∈ s.rsAgu) : InPool s e := .inr (.inr he)

theorem Untouched.visitsOnce {v : State} (hv : Untouched t s v) : VisitsOnce v :=
  hv.manned.delivering.inFlight.visitsOnce

/-- The head's entry is in rs_agu: the two steps before pass it by. -/
theorem Manned.executeStage_agu {C : State → Prop} (hs : Manned s) (hlat : 1 ≤ s.cfg.cacheLat) (hr : s.status = .running)
    {e : RsEntry} (he : e ∈ s.rsAgu) (hd : e.dest = t)
    (agu : ∀ b c, b.status = .running → Untouched t s b → aguStep b = .next c → Goes C (fun _ => True) c)
    (lb : ∀ c d, c.status = .running → C c → lbStep c = .next d → Goes (Nearer t h k s) (fun _ => True) d)
    (hx : Machine.executeStage s = .next u) : Goes (Nearer t h k s) (fun _ => True) u := by
  have start : Untouched t s s := .refl t hs
  refine executeStage_goes (A := Untouched t s) (B := Untouched t s) (fun a ha => ?_) (fun a b har ha hab => ?_) agu lb hx
  · exact start.pool hlat hr alu_inPool (hd ▸ start.visitsOnce.agu_alu e he) ha
  · exact ha.pool hlat har md_inPool (hd ▸ ha.visitsOnce.agu_md e (ha.keeps.agu e he hd)) hab

/-- The head's entry is in the load buffer, `p` ticks on: the three steps before pass it by. -/
theorem Manned.executeStage_lb {rest : List Tag} (hs : Manned s) (hlat : 1 ≤ s.cfg.cacheLat) (hr : s.status = .running)
    (hhead : robTags s = t :: rest) (eh : robAt s t = some h) (hk : opKind h.ins.op = .load ∨ opKind h.ins.op = .amo)
    (haddr : opKind h.ins.op = .amo → h.addrReady = true) {l : LbEntry} (hl : l ∈ s.lb) (hown : l.owner = t)
    (hless : l.progress < s.cfg.cacheLat) (hdue : s.cfg.cacheLat + 2 ≤ k + 1 + l.progress)
    (hx : Machine.executeStage s = .next u) : Goes (Nearer t h k s) (fun _ => True) u := by
  have start : Untouched t s s := .refl t hs
  have there {v : State} (hv : Untouched t s v) : l ∈ v.lb := hv.keeps.lb l hl hown
  refine executeStage_goes (A := Untouched t s) (B := Untouched t s) (C := Untouched t s) (fun a ha => ?_)
    (fun a b har ha hab => ?_) (fun b c hbr hb hbc => ?_) (fun c d hcr hc hcd => ?_) hx
  · exact start.pool hlat hr alu_inPool (hown ▸ start.visitsOnce.lb_alu l hl) ha
  · exact ha.pool hlat har md_inPool (hown ▸ ha.visitsOnce.lb_md l (there ha)) hab
  · exact hb.pool hlat hbr agu_inPool (hown ▸ hb.visitsOnce.lb_agu l (there hb)) hbc
  · have buffered : InBuffer t h l.progress s c :=
      ⟨hc.manned, hc.cfg, hc.evolves, h, hc.keeps.rob.trans eh, .refl h, haddr, l, there hc, hown, rfl⟩
    exact buffered.due hlat hhead hk rfl hless hdue hcr hcd

/-- Where nothing waits for the harvest, a tick of its unit's work brings the head nearer to its commit. -/
theorem Manned.executeStage_head {rest : List Tag} (hs : Manned s) (hlat : 1 ≤ s.cfg.cacheLat) (hr : s.status = .running)
    (hnone : harvestSet s = []) (hhead : robTags s = t :: rest) (eh : robAt s t = some h) (d : Due s t h (k + 1))
    (hready : ¬ Ready h) (haddressed : ¬ Addressed h) (hx : Machine.executeStage s = .next u) :
    Goes (Nearer t h k s) (fun _ => True) u := by
  obtain ⟨idleAlu, idleMd, idleAgu, idleLb⟩ := harvestSet_none hnone
  have start : Untouched t s s := .refl t hs
  have inFlight := hs.delivering.inFlight
  have named {e : RsEntry} (he : InPool s e) (hd : e.dest = t) : e.ins.op = h.ins.op := by
    obtain ⟨g, eg, hins, _⟩ := inFlight.pool_owner he
    rw [hd, eh] at eg
    cases eg
    rw [hins]
  have past (v w : State) (hr : v.status = .running) (hv : Nearer t h k s v) (hx : lbStep v = .next w) :
      Goes (Nearer t h k s) (fun _ => True) w := hv.unitStep hlat hr (.inr (.inr (.inr hx)))
  have atAgu {Y : State → Prop} {e : RsEntry} (he : e ∈ s.rsAgu) (hd : e.dest = t) {b c : State}
      (hbr : b.status = .running) (hb : Untouched t s b)
      (hit : ∀ v w, Untouched t s v → execAt (.execute t) h.ins.op v = .next w → w.cfg = s.cfg → Y w)
      (kept : ∀ v w, v.cfg = s.cfg → w.cfg = s.cfg → KeepsTag t v w → Y v → Y w) (hbc : aguStep b = .next c) :
      Goes (fun u => Manned u ∧ u.cfg = s.cfg ∧ RobEvolves s u ∧ Y u) (fun _ => True) c :=
    hb.hits execute_visitKeeps hlat hbr (hb.manned.delivering.inFlight.poolWork_known agu_inPool)
      (hb.manned.mem_poolWork agu_inPool (hb.keeps.agu e he hd) hd (hb.keeps.rob.trans eh))
      (poolWork_tags _ ▸ hb.visitsOnce.agu) (fun v w hv _ hvw _ hwc => hit v w hv hvw hwc) kept hbc
  have aguDue {e : RsEntry} (he : e ∈ s.rsAgu) (hd : e.dest = t) (hp : e.progress = 0) (h2 : 2 ≤ k)
      (hk : opKind h.ins.op = .loadReserved ∨ (∃ w, opKind h.ins.op = .store w) ∧ Sourced h) :
      Goes (Nearer t h k s) (fun _ => True) u :=
    hs.executeStage_agu hlat hr he hd (fun b c hbr hb hbc => (atAgu he hd hbr hb
      (fun v w hv hvw hwc => hv.agu_due hlat hhead eh hk rfl he hd hp h2 hwc hvw)
      (fun _ _ hac hbc keeps => .kept (hbc.trans hac.symm) (hac ▸ hlat) keeps) hbc).imp
        fun ⟨hum, huc, _, hdue⟩ => ⟨hum, huc, hdue⟩) past hx
  cases d with
  | ready hh => exact absurd hh hready
  | holds hh => exact absurd hh haddressed
  | alu e he hd ho _ hp =>
    have h2 : 2 ≤ k := Nat.le_of_succ_le_succ (hp (idleAlu e he))
    refine executeStage_goes (A := Nearer t h k s) (B := Nearer t h k s) (fun a ha => ?_)
      (fun a b har ha hab => ha.unitStep hlat har (.inr (.inl hab)))
      (fun b c hbr hb hbc => hb.unitStep hlat hbr (.inr (.inr (.inl hbc)))) past hx
    exact start.nearer execute_visitKeeps hlat hr (inFlight.poolWork_known alu_inPool) (hs.mem_poolWork alu_inPool he hd eh)
      (poolWork_tags _ ▸ start.visitsOnce.alu) (fun v w hv _ hvw _ _ => hv.alu_due hhead eh ho rfl he hd h2 hvw) ha
  | md e he hd ho _ hp =>
    have hless : e.progress < latency s.cfg h.ins.op := named (md_inPool e he) hd ▸ idleMd e he
    refine executeStage_goes (A := Untouched t s) (B := Nearer t h k s) (fun a ha => ?_) (fun a b har ha hab => ?_)
      (fun b c hbr hb hbc => hb.unitStep hlat hbr (.inr (.inr (.inl hbc)))) past hx
    · exact start.pool hlat hr alu_inPool (hd ▸ start.visitsOnce.md_alu e he) ha
    · exact ha.nearer execute_visitKeeps hlat har (ha.manned.delivering.inFlight.poolWork_known md_inPool)
        (ha.manned.mem_poolWork md_inPool (ha.keeps.md e he hd) hd (ha.keeps.rob.trans eh))
        (poolWork_tags _ ▸ ha.visitsOnce.md)
        (fun v w hv _ hvw _ hwc => hv.md_due hhead eh ho rfl he hd hless hp hwc hvw) hab
  | reserve e he hd ho _ hp =>
    have h0 : e.progress = 0 := idleAgu e he (by simp [isLoadReserved, named (agu_inPool e he) hd, ho])
    exact aguDue he hd h0 (Nat.le_of_succ_le_succ (hp h0)) (.inl ho)
  | address e w he hd ho hp hq hk => exact aguDue he hd hp (Nat.le_of_succ_le_succ hk) (.inr ⟨⟨w, ho⟩, hq⟩)
  | buffer e he hd ho hp hk =>
    refine hs.executeStage_agu (C := InBuffer t h 0 s) hlat hr he hd (fun b c hbr hb hbc => (atAgu he hd hbr hb
      (fun v w hv hvw hwc => hv.agu_buffered hhead eh ho rfl he hd hp hvw) (fun v w _ _ keeps hY => ?_) hbc).imp
        fun ⟨hum, huc, hue, hY⟩ => ⟨hum, huc, hue, hY⟩)
      (fun c d hcr hc hcd => hc.due hlat hhead ho rfl hlat hk hcr hcd) hx
    obtain ⟨g, eg, hstay, haddr, l, hl, hown, hlp⟩ := hY
    exact ⟨g, keeps.rob.trans eg, hstay, haddr, l, keeps.lb l hl hown, hown, hlp⟩
  | load l hl hown ho _ hp =>
    exact hs.executeStage_lb hlat hr hhead eh (.inl ho) (by simp [ho]) hl hown (idleLb l hl) hp hx
  | atomic l hl hown ho ha hless hp =>
    exact hs.executeStage_lb hlat hr hhead eh (.inr ho) (fun _ => ha) hl hown hless hp hx

end

end Sys2Proof.Machine
end

section
/-! PROOFS. The broadcast stage: the entry of a unit that has done its work may commit, and no other entry is farther from its
commit (45_cdb.md R350 to R358). -/

namespace Sys2Proof.Machine

/-! ### The state behind the broadcast -/

/-- A reorder-buffer entry behind the broadcast. -/
def robBroadcast (s : State) (h : RobEntry) : RobEntry := robHeard (messages s) (robHarvested (harvestSet s) h)

/-- The state behind the broadcast stage (`broadcastStage_eq`). -/
def broadcasted (s : State) : State := { s with
  rsAlu := (s.rsAlu.filter fun e => e.progress = 0).map (rsHeard (messages s))
  rsMd := (s.rsMd.filter fun e => e.progress < latency s.cfg e.ins.op).map (rsHeard (messages s))
  rsAgu := (s.rsAgu.filter fun e => ¬ (opKind e.ins.op = .loadReserved ∧ 1 ≤ e.progress)).map (rsHeard (messages s))
  lb := s.lb.filter fun l => l.progress < s.cfg.cacheLat
  rob := (s.rob.map (robHarvested (harvestSet s))).map (robHeard (messages s)) }

section

variable {s u : State} {t : Tag} {h g : RobEntry} {e : RsEntry} {l : LbEntry} {k : Nat}

theorem mem_harvestSet {x : Harvested} : x ∈ harvestSet s ↔
    (∃ e ∈ s.rsAlu, aluDone e = true ∧ x = ⟨.alu, e.dest, e.result⟩) ∨
    (∃ e ∈ s.rsMd, mdDone s.cfg e = true ∧ x = ⟨.md, e.dest, e.result⟩) ∨
    (∃ e ∈ s.rsAgu, aguDone e = true ∧ x = ⟨.agu, e.dest, e.result⟩) ∨
    ∃ l ∈ s.lb, lbDone s.cfg l = true ∧ x = ⟨.lb, l.owner, l.result⟩ := by
  simp only [harvestSet, List.mem_append, List.mem_map, List.mem_filter, and_assoc, or_assoc, eq_comm (a := x)]

theorem InFlight.harvest_present (hs : InFlight s) : ∀ x ∈ harvestSet s, TagPresent s x.tag := by
  intro x hx
  obtain ⟨d, hd, he⟩ := List.mem_map.1 ((harvestTags_sublist s).subset (List.mem_map_of_mem hx))
  obtain ⟨h, e, _⟩ := hs.owned d hd
  rw [he] at e
  exact List.mem_map.1 (mem_robTags_iff.2 ⟨h, e⟩)

theorem broadcastStage_eq (hs : InFlight s) (hr : s.status = .running) : broadcastStage s = .next (broadcasted s) :=
  broadcastInFull s hr hs.order hs.harvest_present ((oneUnitPerTag_iff s).2 hs.oneUnit)

theorem robHarvested_tag (hs : List Harvested) (h : RobEntry) : (robHarvested hs h).tag = h.tag := by
  unfold robHarvested
  split
  · split <;> rfl
  · rfl

theorem robHeard_tag (ms : List CdbMsg) (h : RobEntry) : (robHeard ms h).tag = h.tag := by
  unfold robHeard
  split <;> rfl

theorem robAt_broadcasted (s : State) (q : Tag) : robAt (broadcasted s) q = (robAt s q).map (robBroadcast s) := by
  have keys : ((fun h : RobEntry => h.tag == q) ∘ robBroadcast s) = fun h => h.tag == q := by
    funext h
    exact congrArg (· == q) ((robHeard_tag _ _).trans (robHarvested_tag _ _))
  have both : (broadcasted s).rob = s.rob.map (robBroadcast s) := List.map_map
  rw [robAt, robAt, both, List.find?_map, keys]

theorem robTags_broadcasted (s : State) : robTags (broadcasted s) = robTags s := by
  have both : (broadcasted s).rob = s.rob.map (robBroadcast s) := List.map_map
  rw [robTags, robTags, both, List.map_map]
  exact List.map_congr_left fun h _ => (robHeard_tag _ _).trans (robHarvested_tag _ _)

/-! ### What each entry keeps -/

theorem markEntry_stays (v : Word) (h : RobEntry) : Stays h (markEntry v h) := by
  unfold markEntry
  split
  · exact ⟨rfl, rfl, id, id, fun _ => rfl, fun _ => .inl rfl⟩
  · exact ⟨rfl, rfl, fun _ => rfl, id, id, id⟩

/-- An entry is marked with the value harvested for its tag, or stays. -/
theorem robHarvested_cases (hs : List Harvested) (h : RobEntry) :
    (∃ x ∈ hs, x.tag = h.tag ∧ robHarvested hs h = markEntry x.value h) ∨
      (∀ x ∈ hs, x.tag ≠ h.tag) ∧ robHarvested hs h = h := by
  unfold robHarvested
  cases hx : hs.find? (fun x => x.tag == h.tag) with
  | some x => exact .inl ⟨x, List.mem_of_find?_eq_some hx, by simpa using List.find?_some hx, rfl⟩
  | none => exact .inr ⟨fun x hm => by simpa using List.find?_eq_none.1 hx x hm, rfl⟩

theorem robHeard_stays (ms : List CdbMsg) (h : RobEntry) : Stays h (robHeard ms h) := by
  unfold robHeard
  split
  · exact ⟨rfl, rfl, id, id, fun _ => rfl, fun _ => .inl rfl⟩
  · exact .refl h

theorem robBroadcast_stays (s : State) (h : RobEntry) : Stays h (robBroadcast s h) := by
  refine Stays.trans (g := robHarvested (harvestSet s) h) ?_ (robHeard_stays _ _)
  rcases robHarvested_cases (harvestSet s) h with ⟨x, _, _, he⟩ | ⟨_, he⟩
  · exact he ▸ markEntry_stays x.value h
  · rw [he]
    exact .refl h

/-- The owner of a harvested entry may commit, if it is no store. -/
theorem robBroadcast_ready {x : Harvested} (hx : x ∈ harvestSet s) (ht : x.tag = h.tag)
    (hw : storeWidth h.ins.op = none) : Ready (robBroadcast s h) := by
  have marked : Ready (robHarvested (harvestSet s) h) := by
    rcases robHarvested_cases (harvestSet s) h with ⟨y, _, _, he⟩ | ⟨hnone, _⟩
    · rw [he]
      have hins := (markEntry_stays y.value h).ins
      cases hk : isSyscall h.ins.op with
      | true => exact .syscall (by simpa [hins, isSyscall] using hk) (by simp [markEntry, hk])
      | false => exact .other (hins ▸ hw) (by simpa [hins, isSyscall] using hk) (markEntry_complete hk)
    · exact absurd ht (hnone x hx)
  exact marked.stays (robHeard_stays _ _)

theorem alu_kept (he : e ∈ s.rsAlu) (hp : e.progress = 0) : rsHeard (messages s) e ∈ (broadcasted s).rsAlu :=
  List.mem_map_of_mem (List.mem_filter.2 ⟨he, by simpa using hp⟩)

theorem md_kept (he : e ∈ s.rsMd) (hp : e.progress < latency s.cfg e.ins.op) :
    rsHeard (messages s) e ∈ (broadcasted s).rsMd :=
  List.mem_map_of_mem (List.mem_filter.2 ⟨he, by simpa using hp⟩)

theorem agu_kept (he : e ∈ s.rsAgu) (hp : opKind e.ins.op = .loadReserved → e.progress = 0) :
    rsHeard (messages s) e ∈ (broadcasted s).rsAgu := by
  refine List.mem_map_of_mem (List.mem_filter.2 ⟨he, decide_eq_true fun ⟨hk, h1⟩ => ?_⟩)
  rw [hp hk] at h1
  cases h1

theorem lb_kept (hl : l ∈ s.lb) (hp : l.progress < s.cfg.cacheLat) : l ∈ (broadcasted s).lb :=
  List.mem_filter.2 ⟨hl, by simpa using hp⟩

/-- No entry is farther from its commit behind the broadcast. -/
theorem Due.broadcasted (hs : InFlight s) (eh : robAt s t = some h) (d : Due s t h k) :
    Due (broadcasted s) t (robBroadcast s h) k := by
  have stays := robBroadcast_stays s h
  have hins := stays.ins
  have htag : h.tag = t := robAt_tag eh
  have named {e : RsEntry} (he : InPool s e) (hd : e.dest = t) : e.ins = h.ins := by
    obtain ⟨g, eg, hins, _⟩ := hs.pool_owner he
    rw [hd, eh] at eg
    cases eg
    exact hins.symm
  have done {x : Harvested} (hx : x ∈ harvestSet s) (ht : x.tag = t) (hw : storeWidth h.ins.op = none) (h2 : 2 ≤ k) :
      Due (Machine.broadcasted s) t (robBroadcast s h) k :=
    .ready (robBroadcast_ready hx (ht.trans htag.symm) hw) (Nat.le_of_succ_le h2)
  cases d with
  | ready hh hk => exact .ready (hh.stays stays) hk
  | holds hh hk => exact .holds (hh.stays stays) hk
  | alu e he hd ho hk hp =>
    by_cases h0 : e.progress = 0
    · exact .alu _ (alu_kept he h0) hd (hins ▸ ho) hk hp
    · refine done (mem_harvestSet.2 (.inl ⟨e, he, ?_, rfl⟩)) hd ?_ hk
      · exact decide_eq_true (Nat.one_le_iff_ne_zero.2 h0)
      · rcases ho with ho | ho | ho | ho <;> simp [storeWidth, ho]
  | md e he hd ho hk hp =>
    by_cases hless : e.progress < latency s.cfg e.ins.op
    · exact .md _ (md_kept he hless) hd (hins ▸ ho) hk (hins ▸ hp)
    · refine done (mem_harvestSet.2 (.inr (.inl ⟨e, he, ?_, rfl⟩))) hd ?_ hk
      · exact decide_eq_true (Nat.not_lt.1 hless)
      · rcases ho with ho | ho <;> simp [storeWidth, ho]
  | reserve e he hd ho hk hp =>
    have hop : opKind e.ins.op = .loadReserved := by rw [named (.inr (.inr he)) hd, ho]
    by_cases h0 : e.progress = 0
    · exact .reserve _ (agu_kept he fun _ => h0) hd (hins ▸ ho) hk hp
    · refine done (mem_harvestSet.2 (.inr (.inr (.inl ⟨e, he, ?_, rfl⟩)))) hd (by simp [storeWidth, ho]) hk
      simpa [aguDone, isLoadReserved, hop] using Nat.one_le_iff_ne_zero.2 h0
  | address e w he hd ho hp hq hk => exact .address _ w (agu_kept he fun _ => hp) hd (hins ▸ ho) hp (stays.source hq) hk
  | buffer e he hd ho hp hk => exact .buffer _ (agu_kept he fun _ => hp) hd (hins ▸ ho) hp hk
  | load l hl hown ho hk hp =>
    by_cases hless : l.progress < s.cfg.cacheLat
    · exact .load l (lb_kept hl hless) hown (hins ▸ ho) hk hp
    · refine done (mem_harvestSet.2 (.inr (.inr (.inr ⟨l, hl, ?_, rfl⟩)))) hown (by simp [storeWidth, ho]) hk
      exact decide_eq_true (Nat.not_lt.1 hless)
  | atomic l hl hown ho ha hless hp =>
    exact .atomic l (lb_kept hl hless) hown (hins ▸ ho) (stays.addr ha) hless hp

/-! ### Who waits for whom -/

theorem heard_slot (ms : List CdbMsg) (v : Word) (q : Tag) : (heard ms v q).q = q ∨ (heard ms v q).q = 0 := by
  unfold heard
  split
  · exact .inr rfl
  · exact .inl rfl

theorem inPool_broadcasted (he : InPool (broadcasted s) e) : ∃ x, InPool s x ∧ e = rsHeard (messages s) x := by
  have from_filter {es : List RsEntry} {p : RsEntry → Bool} (hp : e ∈ (es.filter p).map (rsHeard (messages s))) :
      ∃ x ∈ es, e = rsHeard (messages s) x := by
    obtain ⟨x, hx, rfl⟩ := List.mem_map.1 hp
    exact ⟨x, List.mem_of_mem_filter hx, rfl⟩
  rcases he with he | he | he <;> obtain ⟨x, hx, rfl⟩ := from_filter he
  · exact ⟨x, .inl hx, rfl⟩
  · exact ⟨x, .inr (.inl hx), rfl⟩
  · exact ⟨x, .inr (.inr hx), rfl⟩

theorem OlderOnly.broadcasted (hs : OlderOnly s) : OlderOnly (broadcasted s) := by
  refine hs.of_entries fun e he => ?_
  obtain ⟨x, hx, rfl⟩ := inPool_broadcasted he
  exact ⟨x, hx, rfl, heard_slot _ _ _, heard_slot _ _ _⟩

theorem robBroadcast_storeQ (s : State) (h : RobEntry) : (robBroadcast s h).storeQ = h.storeQ ∨ (robBroadcast s h).storeQ = 0 := by
  have marked : (robHarvested (harvestSet s) h).storeQ = h.storeQ := by
    unfold robHarvested
    split
    · split <;> rfl
    · rfl
  rw [← marked]
  unfold robBroadcast robHeard
  split
  · exact .inr rfl
  · exact .inl rfl

theorem OlderData.broadcasted (hs : OlderData s) : OlderData (broadcasted s) := by
  intro q g eg h0
  rw [robAt_broadcasted] at eg
  obtain ⟨h, e, rfl⟩ := Option.map_eq_some_iff.1 eg
  have same := (robBroadcast_storeQ s h).resolve_right h0
  rw [same] at h0 ⊢
  exact hs q h e h0

theorem harvestSet_broadcasted (s : State) : harvestSet (broadcasted s) = [] := by
  have left {ms : List CdbMsg} {p q : RsEntry → Bool} (es : List RsEntry) (hp : ∀ e, q e = true → ¬ p (rsHeard ms e) = true) :
      ((es.filter q).map (rsHeard ms)).filter p = [] := by
    refine List.filter_eq_nil_iff.2 fun e he => ?_
    obtain ⟨x, hx, rfl⟩ := List.mem_map.1 he
    exact hp x (List.mem_filter.1 hx).2
  have lb : (s.lb.filter fun l => l.progress < s.cfg.cacheLat).filter (lbDone s.cfg) = [] := by
    refine List.filter_eq_nil_iff.2 fun l hl => ?_
    simpa [lbDone] using (List.mem_filter.1 hl).2
  simp only [harvestSet, broadcasted]
  rw [left _ fun e he => by simpa [aluDone, rsHeard, Nat.one_le_iff_ne_zero] using he,
    left _ fun e he h => Nat.not_lt.2 (of_decide_eq_true h) (of_decide_eq_true he),
    left _ fun e he => by simpa [aguDone, rsHeard, isLoadReserved, Nat.one_le_iff_ne_zero, imp_iff_not_or] using he, lb]
  rfl

end

theorem Roster.broadcasted {s : State} (hs : Roster s) (inFlight : InFlight s) : Roster (broadcasted s) := by
  refine ⟨fun t g eg => ?_, hs.older.broadcasted, hs.data.broadcasted⟩
  rw [robAt_broadcasted] at eg
  obtain ⟨h, e, rfl⟩ := Option.map_eq_some_iff.1 eg
  exact (hs.staffed t h e).broadcasted inFlight e

end Sys2Proof.Machine
end

section
/-! PROOFS. What the commit stage does with the head of the reorder buffer, by its class (46_commit.md R372 to R376). -/

namespace Sys2Proof.Machine

/-- The head cannot commit yet. -/
inductive Waits (h : RobEntry) : Prop
  | store (hw : storeWidth h.ins.op ≠ none) (hstall : h.addrReady = false ∨ h.valueReady = false)
  | syscall (hk : opKind h.ins.op = .syscall) (hv : h.valueReady = false)
  | other (hw : storeWidth h.ins.op = none) (hk : opKind h.ins.op ≠ .syscall) (hc : h.complete = false)

/-- Class other: the instructions that write their register and leave (R376). -/
def OtherKind (o : Op) : Prop :=
  opKind o = .alu ∨ opKind o = .mul ∨ opKind o = .div ∨ opKind o = .load ∨ opKind o = .loadReserved ∨
    opKind o = .suppressed

/-- What commit makes of a state with the head `h`. -/
inductive HeadCommit (h : RobEntry) (younger : List RobEntry) (s : State) : State → Prop
  | waits (hw : Waits h) : HeadCommit h younger s s
  | holds (hw : storeWidth h.ins.op ≠ none) (ha : h.addrReady = true) (hv : h.valueReady = true) (hp : h.progress = 0) :
      HeadCommit h younger s { s with rob := { h with progress := 1 } :: younger }
  | other (hk : OtherKind h.ins.op) (hc : h.complete = true) :
      HeadCommit h younger s { s with
        regs := regsWith s h.dest h.result, rst := rstReleased s h.dest h.tag, rob := younger }
  | writes (w : Width) (hw : storeWidth h.ins.op = some w) (ha : h.addrReady = true) (hv : h.valueReady = true)
      (hp : h.progress ≠ 0) (hf : accessFault s.cfg h.addr (widthBytes w) = none) :
      HeadCommit h younger s { s with
        mem := memWrite s.mem h.addr (widthBytes w) h.wb
        regs := regsWith s h.dest h.result, rst := rstReleased s h.dest h.tag, rob := younger }
  | right (hk : opKind h.ins.op = .branch) (hc : h.complete = true) (hp : (h.result == 1) = h.ins.pred) :
      HeadCommit h younger s { s with pred := updatedPred s h.ins.pc (h.result == 1), rob := younger }
  | wrong (i : Instr) (taken : Bool) (imm : Word) (hop : h.ins.op = .ins i)
      (hshape : branchShape i (fun _ => 0) = some (taken, imm)) (hc : h.complete = true)
      (hp : (h.result == 1) ≠ h.ins.pred) :
      HeadCommit h younger s (squashed { s with
        pred := updatedPred s h.ins.pc (h.result == 1), pc := branchTarget h imm (h.result == 1) })
  | resumes (v : Word) (writes : List (Word × Byte)) (hk : opKind h.ins.op = .syscall) (hv : h.valueReady = true)
      (hd : dispatch s = .resume v writes) :
      HeadCommit h younger s (squashed { s with
        regs := s.regs.set 10 v, mem := writeBytes s.mem writes, pc := h.result })
  | exits (code : Word) (hk : opKind h.ins.op = .syscall) (hv : h.valueReady = true) (hd : dispatch s = .exit code) :
      HeadCommit h younger s { s with status := .exited code }
  | faults (f : Fault) : HeadCommit h younger s { s with status := .faulted f }

section

variable {s u : State} {h : RobEntry} {younger : List RobEntry}

theorem commitOther_head (hrob : s.rob = h :: younger) (hk : OtherKind h.ins.op) :
    HeadCommit h younger s (commitOther s) := by
  cases hc : h.complete with
  | true =>
    rw [commitOther_retires hrob hc]
    exact .other hk hc
  | false =>
    rw [commitOther_waits hrob hc]
    refine .waits (.other ?_ ?_ hc) <;> rcases hk with hk | hk | hk | hk | hk | hk <;> simp [storeWidth, hk]

theorem commitStore_head {w : Width} (hrob : s.rob = h :: younger) (hw : storeWidth h.ins.op = some w) :
    HeadCommit h younger s (commitStore w s) := by
  have hstore : storeWidth h.ins.op ≠ none := by simp [hw]
  by_cases hstall : h.addrReady = false ∨ h.valueReady = false
  · rw [commitStore_stalls hrob hstall]
    exact .waits (.store hstore hstall)
  obtain ⟨ha, hv⟩ : h.addrReady = true ∧ h.valueReady = true := by simpa using hstall
  by_cases hp : h.progress = 0
  · rw [commitStore_holds hrob ha hv hp]
    exact .holds hstore ha hv hp
  cases hf : accessFault s.cfg h.addr (widthBytes w) with
  | some f =>
    rw [commitStore_faults hrob ha hv hp hf]
    exact .faults f
  | none =>
    rw [commitStore_writes hrob ha hv hp hf]
    exact .writes w hw ha hv hp hf

theorem commitBranch_head {i : Instr} {taken : Bool} {imm : Word} (hrob : s.rob = h :: younger) (hop : h.ins.op = .ins i)
    (hk : kindOf i = .branch) (hshape : branchShape i (fun _ => 0) = some (taken, imm)) :
    HeadCommit h younger s (commitBranch imm s) := by
  have kind : opKind h.ins.op = .branch := by rw [hop]; exact hk
  cases hc : h.complete with
  | false =>
    rw [commitBranch_waits imm hrob hc]
    exact .waits (.other (by simp [storeWidth, kind]) (by simp [kind]) hc)
  | true =>
    by_cases hp : (h.result == 1) = h.ins.pred
    · rw [commitBranch_right imm hrob hc hp]
      exact .right kind hc hp
    · rw [commitBranch_wrong imm hrob hc hp]
      exact .wrong i taken imm hop hshape hc hp

theorem commitSyscall_head (hrob : s.rob = h :: younger) (hk : opKind h.ins.op = .syscall) :
    HeadCommit h younger s (commitSyscall s) := by
  cases hv : h.valueReady with
  | false =>
    rw [commitSyscall_waits hrob hv]
    exact .waits (.syscall hk hv)
  | true =>
    cases hd : dispatch s with
    | resume v writes =>
      rw [commitSyscall_resumes hrob hv hd]
      exact .resumes v writes hk hv hd
    | exit code =>
      rw [commitSyscall_exits hrob hv hd]
      exact .exits code hk hv hd
    | unimplemented n =>
      rw [commitSyscall_unimplemented hrob hv hd]
      exact .faults _
    | memFault a =>
      rw [commitSyscall_memFault hrob hv hd]
      exact .faults _

theorem execOp_headCommit (hs : s.stage = .commit) (hrob : s.rob = h :: younger) (hx : execOp h.ins.op s = .next u) :
    HeadCommit h younger s u := by
  cases hop : h.ins.op with
  | nop =>
    rw [hop] at hx
    cases (show execOp .nop s = .next (commitOther s) from life_commit hs _ _ _ _ _).symm.trans hx
    exact commitOther_head hrob (by rw [hop]; exact .inr (.inr (.inr (.inr (.inr rfl)))))
  | ins i =>
    rw [hop] at hx
    have kind {k : Kind} (hk : kindOf i = k) : opKind h.ins.op = k := by rw [hop]; exact hk
    have other (hk : OtherKind (.ins i)) : HeadCommit h younger s u := by
      cases (exec_commit_other hs hk).symm.trans hx
      exact commitOther_head hrob (hop ▸ hk)
    cases hk : kindOf i with
    | store w =>
      cases (exec_commit_store hs (storeWidth_of_kind hk)).symm.trans hx
      exact commitStore_head hrob (hop ▸ storeWidth_of_kind hk)
    | amo =>
      have hw : storeWidth (.ins i) = some .word := by simp [storeWidth, opKind, hk]
      cases (exec_commit_store hs hw).symm.trans hx
      exact commitStore_head hrob (hop ▸ hw)
    | branch =>
      obtain ⟨taken, imm, hshape⟩ := branchShape_of_kind hk
      cases (exec_commit_branch hs hshape).symm.trans hx
      exact commitBranch_head hrob hop hk hshape
    | syscall =>
      cases (exec_commit_syscall hs hk).symm.trans hx
      exact commitSyscall_head hrob (kind hk)
    | refused =>
      cases (exec_refused hk).symm.trans hx
      exact .faults _
    | alu => exact other (.inl hk)
    | mul => exact other (.inr (.inl hk))
    | div => exact other (.inr (.inr (.inl hk)))
    | load => exact other (.inr (.inr (.inr (.inl hk))))
    | loadReserved => exact other (.inr (.inr (.inr (.inr (.inl hk)))))
    | suppressed => exact other (.inr (.inr (.inr (.inr (.inr hk)))))

/-- The commit stage at the head `h`. -/
theorem commitStage_head (hrob : s.rob = h :: younger) (hx : commitStage s = .next u) :
    ∃ v, HeadCommit h younger { s with stage := .commit } v ∧ u = { v with stage := .fetch } := by
  rw [commitStage_cons hrob] at hx
  obtain ⟨v, hv, rfl⟩ := execAt_inv hx
  exact ⟨v, execOp_headCommit rfl hrob hv, rfl⟩

/-- What waits is not ready, and neither is it a store with its data. -/
theorem Waits.not_ready (hw : Waits h) : ¬ Ready h := by
  intro hr
  cases hw with
  | store hs hstall =>
    cases hr with
    | store _ ha hv => rcases hstall with hf | hf <;> simp_all
    | syscall hk => exact hs (by simp [storeWidth, hk])
    | other hn => exact hs hn
  | syscall hk hf =>
    cases hr with
    | store hs => exact hs (by simp [storeWidth, hk])
    | syscall _ hv => simp [hf] at hv
    | other _ hn => exact hn hk
  | other hn hk hf =>
    cases hr with
    | store hs => exact hs hn
    | syscall hs => exact hk hs
    | other _ _ hc => simp [hf] at hc

end

end Sys2Proof.Machine
end

section
/-! PROOFS. The commit stage: a head that is ready leaves, a store that has its data is ready after it, and no other entry is
farther from its commit (46_commit.md R372, R378). -/

namespace Sys2Proof.Machine

section

variable {s u : State} {t : Tag} {h g : RobEntry} {younger : List RobEntry} {k : Nat}

theorem Due.pos (d : Due s t h k) : 1 ≤ k := by
  cases d <;> omega

/-- What is not ready has two ticks before it. -/
theorem Due.two_le (d : Due s t h k) (hn : ¬ Ready h) (hlat : 1 ≤ s.cfg.cacheLat) : 2 ≤ k := by
  cases d with
  | ready hh => exact absurd hh hn
  | holds _ hk => exact hk
  | alu _ _ _ _ hk => exact hk
  | md _ _ _ _ hk => exact hk
  | reserve _ _ _ _ hk => exact hk
  | address => omega
  | buffer => omega
  | load _ _ _ _ hk => exact hk
  | atomic => omega

/-- Entries that leave take nothing from the others. -/
theorem Roster.shrink (hs : Roster s) (hlat : 1 ≤ s.cfg.cacheLat) (hcfg : u.cfg = s.cfg) (halu : u.rsAlu = s.rsAlu)
    (hmd : u.rsMd = s.rsMd) (hagu : u.rsAgu = s.rsAgu) (hlb : u.lb = s.lb)
    (hsub : ∀ t g, robAt u t = some g → robAt s t = some g) : Roster u where
  staffed t g eg := by
    rw [hcfg]
    exact (hs.staffed t g (hsub t g eg)).kept (.refl g) hcfg hlat (fun _ he _ => halu ▸ he) (fun _ he _ => hmd ▸ he)
      (fun _ he _ => hagu ▸ he) fun _ hl _ => hlb ▸ hl
  older e he := by
    simp only [InPool, halu, hmd, hagu] at he
    exact hs.older e he
  data t g eg := hs.data t g (hsub t g eg)

theorem Roster.of_empty (hrob : s.rob = []) (halu : s.rsAlu = []) (hmd : s.rsMd = []) (hagu : s.rsAgu = []) :
    Roster s := by
  refine ⟨fun t g eg => ?_, fun e he => ?_, fun t g eg => ?_⟩
  · simp [robAt, hrob] at eg
  · simp [InPool, halu, hmd, hagu] at he
  · simp [robAt, hrob] at eg

theorem robAt_of_tail (ho : TagsInOrder s) (hrob : s.rob = h :: younger) (hu : u.rob = younger) (q : Tag) (g : RobEntry)
    (eg : robAt u q = some g) : robAt s q = some g := by
  by_cases hq : q = h.tag
  · rw [hq, robAt_tail_head ho hrob hu] at eg
    cases eg
  · rwa [robAt_tail hrob hu hq] at eg

/-- The head's store has its data: it can wait for older entries only, and there are none. -/
theorem Addressed.value (ha : Addressed h) (ho : TagsInOrder s) (hann : Announced [] s) (hdata : OlderData s)
    (hrob : s.rob = h :: younger) : h.valueReady = true := by
  refine ha.source.resolve_right fun h0 => ?_
  have atHead := robAt_head hrob
  obtain ⟨g, eg, _⟩ := hann h.storeQ (.inr ⟨h.tag, h, atHead, rfl⟩) h0
  have older := hdata h.tag h atHead h0
  have order := ho.1
  rw [hrob] at order
  have hmem := robAt_mem eg
  rw [hrob] at hmem
  have htag := robAt_tag eg
  rcases List.mem_cons.1 hmem with rfl | hyounger
  · exact Nat.ne_of_lt older htag.symm
  · have := (List.pairwise_cons.1 order).1 g hyounger
    rw [htag] at this
    exact Nat.lt_asymm older this

/-- Commit keeps what gets the entries done. -/
theorem HeadCommit.roster (c : HeadCommit h younger s u) (hs : Roster s) (ho : TagsInOrder s) (hlat : 1 ≤ s.cfg.cacheLat)
    (hrob : s.rob = h :: younger) : Roster u := by
  have shorter {v : State} (hv : v.rob = younger) := robAt_of_tail ho hrob hv
  cases c with
  | waits => exact hs
  | holds hw ha hv hp =>
    have entry (q : Tag) (g : RobEntry) (eg : robAt { s with rob := { h with progress := 1 } :: younger } q = some g) :
        (q = h.tag ∧ g = { h with progress := 1 }) ∨ robAt s q = some g := by
      by_cases hq : h.tag = q
      · have found : robAt { s with rob := { h with progress := 1 } :: younger } q = some { h with progress := 1 } := by
          simp [robAt, hq]
        cases found.symm.trans eg
        exact .inl ⟨hq.symm, rfl⟩
      · have other : (h.tag == q) = false := by simpa using hq
        refine .inr ?_
        rw [robAt, hrob, List.find?_cons_of_neg (by simp [other])]
        rwa [robAt, List.find?_cons_of_neg (by simp [other])] at eg
    refine ⟨fun q g eg => ?_, hs.older, fun q g eg h0 => ?_⟩
    · rcases entry q g eg with ⟨_, rfl⟩ | eg
      · exact .ready (.store hw ha hv Nat.one_ne_zero) (by simp only [longest]; omega)
      · exact (hs.staffed q g eg).kept (.refl g) rfl hlat (fun _ he _ => he) (fun _ he _ => he) (fun _ he _ => he)
          fun _ hl _ => hl
    · rcases entry q g eg with ⟨rfl, rfl⟩ | eg
      · exact hs.data h.tag h (robAt_head hrob) h0
      · exact hs.data q g eg h0
  | other => exact hs.shrink hlat rfl rfl rfl rfl rfl (shorter rfl)
  | writes => exact hs.shrink hlat rfl rfl rfl rfl rfl (shorter rfl)
  | right => exact hs.shrink hlat rfl rfl rfl rfl rfl (shorter rfl)
  | wrong => exact .of_empty rfl rfl rfl rfl
  | resumes => exact .of_empty rfl rfl rfl rfl
  | exits => exact hs.shrink hlat rfl rfl rfl rfl rfl fun _ _ => id
  | faults => exact hs.shrink hlat rfl rfl rfl rfl rfl fun _ _ => id

theorem HeadCommit.cfg (c : HeadCommit h younger s u) : u.cfg = s.cfg := by
  cases c <;> rfl

/-- Within the tick: the entry `h` at the head, of the tag `t`, and where it stands. -/
def AtHead (t : Tag) (P : State → RobEntry → Prop) (s : State) : Prop :=
  ∃ g rest, robTags s = t :: rest ∧ robAt s t = some g ∧ P s g

/-- The head is due within `k` ticks, or a tick of its unit's work is missing. -/
def NearlyDue (t : Tag) (k : Nat) (s : State) (g : RobEntry) : Prop :=
  Due s t g k ∨ Due s t g (k + 1) ∧ ¬ Ready g ∧ ¬ Addressed g

/-- The head leaves the reorder buffer with the commit stage, or it comes nearer to its commit, or it is its unit's turn. -/
theorem HeadCommit.progress (c : HeadCommit h younger s u) (hs : Roster s) (ho : TagsInOrder s) (hann : Announced [] s)
    (hlat : 1 ≤ s.cfg.cacheLat) (hrob : s.rob = h :: younger) (d : Due s h.tag h (k + 1)) (hu : u.status = .running) :
    robAt u h.tag = none ∨ AtHead h.tag (NearlyDue h.tag k) u := by
  have leaves {v : State} (hv : v.rob = younger) : robAt v h.tag = none := robAt_tail_head ho hrob hv
  cases c with
  | waits hw =>
    refine .inr ⟨h, younger.map (·.tag), by simp [robTags, hrob], robAt_head hrob, .inr ⟨d, hw.not_ready, fun ha => ?_⟩⟩
    have hv := ha.value ho hann hs.data hrob
    cases hw with
    | store _ hstall => rcases hstall with hf | hf <;> simp [ha.addr, hv] at hf
    | syscall hk => exact ha.store (by simp [storeWidth, hk])
    | other hn => exact ha.store hn
  | holds hw ha hv hp =>
    have hn : ¬ Ready h := by
      rintro (⟨_, _, _, h0⟩ | ⟨hk, _⟩ | ⟨hn, _⟩)
      · exact h0 hp
      · exact hw (by simp [storeWidth, hk])
      · exact hw hn
    exact .inr ⟨{ h with progress := 1 }, younger.map (·.tag), rfl,
      robAt_head (h := { h with progress := 1 }) (younger := younger) rfl,
      .inl (.ready (.store hw ha hv Nat.one_ne_zero) (Nat.le_of_succ_le_succ (d.two_le hn hlat)))⟩
  | other => exact .inl (leaves rfl)
  | writes => exact .inl (leaves rfl)
  | right => exact .inl (leaves rfl)
  | wrong => exact .inl rfl
  | resumes => exact .inl rfl
  | exits => cases hu
  | faults => cases hu

end

end Sys2Proof.Machine
end

section
/-! PROOFS. What the fetch and issue stages do, the record and the form named (44_branch_fetch.md R322 to R328;
40_cycle_issue_rename.md R140 to R148). -/

namespace Sys2Proof.Machine

/-! ### Fetch -/

/-- JALR, the one record that stalls fetch (44_branch_fetch.md R325). -/
def isJalrOp : Op → Bool
  | .ins i => isJalr i
  | .nop => false

/-- The record that fetch makes of the instruction `i` at `s.pc`, and the pc it goes on with (R322 to R326, R334). -/
inductive Fetched (s : State) (i : Instr) : Decoded → Word → Prop
  | branch (taken : Bool) (imm : Word) (hshape : branchShape i (fun _ => 0) = some (taken, imm)) :
      Fetched s i ⟨.ins i, s.pc, predict s s.pc⟩ (if predict s s.pc then s.pc + imm else s.pc + 4)
  | suppressed (hk : kindOf i = .suppressed) : Fetched s i ⟨.nop, s.pc, false⟩ (s.pc + 4)
  | jal (rd : Reg) (imm : Word) (hi : i = .jal rd imm) : Fetched s i ⟨.ins i, s.pc, false⟩ (s.pc + imm)
  | jalr (hj : isJalr i = true) : Fetched s i ⟨.ins i, s.pc, false⟩ s.pc
  | next (hb : kindOf i ≠ .branch) (hj : isJal i = false) (hr : isJalr i = false) (hn : kindOf i ≠ .suppressed)
      (hf : kindOf i ≠ .refused) : Fetched s i ⟨.ins i, s.pc, false⟩ (s.pc + 4)

/-- The record `r` has joined iq, and fetch goes on at `next`, or waits for the JALR that `r` is (R325, R327). -/
def fetchedState (r : Decoded) (next : Word) (s : State) : State :=
  { s with
    iq := s.iq ++ [r], pc := next, jalrWait := if isJalrOp r.op then .unissued else .none
    stage := .fetch }

section

variable {s u : State} {i : Instr} {r : Decoded} {next : Word}

theorem exec_fetch_fetched (hs : s.stage = .fetch) (hw : s.jalrWait = .none) (hx : exec i s = .next u)
    (hu : u.status = .running) : ∃ r next, Fetched s i r next ∧ u = fetchedState r next s := by
  have step {v : State} (e : exec i s = .next v) : v = u := by
    cases e.symm.trans hx
    rfl
  have enqueued {o : Op} {p : Bool} {n : Word} (h : isJalrOp o = false) :
      enqueue o p n s = fetchedState ⟨o, s.pc, p⟩ n s := by
    simp [enqueue, fetchedState, h, hs, hw]
  by_cases hb : kindOf i = .branch
  · obtain ⟨taken, imm, hshape⟩ := branchShape_of_kind hb
    have plain : isJalr i = false := by cases i <;> first | rfl | cases hb
    exact ⟨_, _, .branch taken imm hshape, (step (exec_fetch_branch hs hshape)).symm.trans (enqueued plain)⟩
  by_cases hn : kindOf i = .suppressed
  · exact ⟨_, _, .suppressed hn, (step (exec_fetch_suppressed hs hn)).symm.trans (enqueued rfl)⟩
  by_cases hf : kindOf i = .refused
  · rw [← step (exec_refused hf)] at hu
    cases hu
  cases hj : isJal i with
  | true =>
    cases i <;> cases hj
    exact ⟨_, _, .jal _ _ rfl, (step (life_fetch hs _ _ _ _ _)).symm.trans (enqueued rfl)⟩
  | false =>
    cases hr : isJalr i with
    | true =>
      refine ⟨_, _, .jalr hr, ?_⟩
      cases i <;> cases hr
      refine (step (life_fetch hs _ _ _ _ _)).symm.trans ?_
      simp [fetchJalr, enqueue, fetchedState, isJalrOp, isJalr, hs]
    | false => exact ⟨_, _, .next hb hj hr hn hf, (step (exec_fetch_next hs hb hj hr hn hf)).symm.trans (enqueued hr)⟩

theorem fetchHere_fetched (hw : s.jalrWait = .none) (hx : fetchHere s = .next u) (hu : u.status = .running) :
    accessFault s.cfg s.pc 4 = none ∧ ∃ i r next, decodeWord (fetchedWord s) = .ok i ∧ Fetched s i r next ∧
      u = fetchedState r next s := by
  unfold fetchHere at hx
  split at hx
  · cases hx
    cases hu
  · rename_i hf
    refine ⟨hf, ?_⟩
    split at hx
    · cases hx
      cases hu
    · rename_i i hdecode
      obtain ⟨v, hv, rfl⟩ := execAt_inv hx
      obtain ⟨r, next, hr, rfl⟩ := exec_fetch_fetched (s := { s with stage := .fetch }) rfl hw hv hu
      refine ⟨i, r, next, hdecode, ?_, rfl⟩
      cases hr with
      | branch taken imm hshape => exact .branch taken imm hshape
      | suppressed hk => exact .suppressed hk
      | jal rd imm hi => exact .jal rd imm hi
      | jalr hj => exact .jalr hj
      | next hb hj hr hn hf => exact .next hb hj hr hn hf

/-- The pc the fetch stage reads at, a JALR resumed (44_branch_fetch.md R320, R328). -/
inductive FetchesAt (s : State) : Word → Prop
  | straight (hw : s.jalrWait = .none) : FetchesAt s s.pc
  | resumed (t : Tag) (e : RsEntry) (hw : s.jalrWait = .waiting t) (he : e ∈ s.rsAlu) (hd : e.dest = t) (hq : e.qj = 0) :
      FetchesAt s (jalrTarget e.vj e.vk)

/-- The fetch stage, where the run goes on: it waits for a JALR, or a record joins iq. -/
theorem fetchStage_fetched (hx : fetchStage s = .next u) (hu : u.status = .running) :
    ((s.jalrWait = .unissued ∨ ∃ t, s.jalrWait = .waiting t) ∧ u = s) ∨
    ∃ pc i r next, FetchesAt s pc ∧ accessFault s.cfg pc 4 = none ∧
      decodeWord (fetchedWord { s with pc := pc, jalrWait := .none }) = .ok i ∧
      Fetched { s with pc := pc, jalrWait := .none } i r next ∧
      u = fetchedState r next { s with pc := pc, jalrWait := .none } := by
  have here {pc : Word} (hpc : FetchesAt s pc) (hx : fetchHere { s with pc := pc, jalrWait := .none } = .next u) :
      ∃ pc i r next, FetchesAt s pc ∧ accessFault s.cfg pc 4 = none ∧
        decodeWord (fetchedWord { s with pc := pc, jalrWait := .none }) = .ok i ∧
        Fetched { s with pc := pc, jalrWait := .none } i r next ∧
        u = fetchedState r next { s with pc := pc, jalrWait := .none } := by
    obtain ⟨hf, i, r, next, hdecode, hr, rfl⟩ := fetchHere_fetched rfl hx hu
    exact ⟨pc, i, r, next, hpc, hf, hdecode, hr, rfl⟩
  unfold fetchStage at hx
  split at hx
  · rename_i hw
    rw [show s = { s with pc := s.pc, jalrWait := .none } by rw [← hw]] at hx
    exact .inr (here (.straight hw) hx)
  · rename_i hw
    cases hx
    exact .inl ⟨.inl hw, rfl⟩
  · rename_i t hw
    split at hx
    · cases hx
      cases hu
    · rename_i e hfind
      split at hx
      · cases hx
        exact .inl ⟨.inr ⟨t, hw⟩, rfl⟩
      · rename_i target htarget
        have hq : e.qj = 0 := Decidable.byContradiction fun h => by simp [resumeTarget, h] at htarget
        rw [resumeTarget, if_pos hq] at htarget
        cases htarget
        exact .inr (here (.resumed t e hw (List.mem_of_find?_eq_some hfind) (by simpa using List.find?_some hfind) hq) hx)

/-! ### The records of iq -/

/-- Every fetched record has its form at issue. -/
theorem Fetched.form (f : Fetched s i r next) : ∃ form, issueTableOp r.op = some form := by
  have of_kind (hn : kindOf i ≠ .suppressed) (hf : kindOf i ≠ .refused) : ∃ form, issueTable i = some form := by
    cases h : issueTable i with
    | some form => exact ⟨form, rfl⟩
    | none => exact (issueTable_suppressed_or_refused h).elim (absurd · hn) (absurd · hf)
  cases f with
  | branch taken imm hshape => cases i <;> cases hshape <;> exact ⟨_, rfl⟩
  | suppressed => exact ⟨_, rfl⟩
  | jal rd imm hi => exact ⟨_, congrArg issueTable hi⟩
  | jalr hj =>
    cases i <;> cases hj
    exact ⟨_, rfl⟩
  | next _ _ _ hn hf => exact of_kind hn hf

/-! ### Issue -/

variable {form : IssueForm} {waiting : List Decoded}

theorem execOp_issue_form (hs : s.stage = .issue) (hr : s.status = .running) (hiq : s.iq = r :: waiting)
    (hform : issueTableOp r.op = some form) {j k d : Slot}
    (hreads : readOperands s r.pc form.j form.k form.data = .slots j k d) :
    execOp r.op s = .next { issued form r waiting j k d s with
      jalrWait := if isJalrOp r.op = true ∧ s.jalrWait = .unissued then .waiting s.nextTag else s.jalrWait } := by
  cases hop : r.op with
  | nop =>
    rw [hop] at hform
    cases hform
    rw [show execOp .nop s = .next (issueAs (aluForm (.const 0) (.const 0) 0) s) from life_issue hs _ _ _ _ _,
      issueAs_issued hiq hreads]
    rfl
  | ins i =>
    rw [hop] at hform
    cases hj : isJalr i with
    | true =>
      rw [show execOp (.ins i) s = exec i s from rfl, exec_issue_jalr hs hform hj, issueJalr_issued hr hiq hreads]
      simp [isJalrOp, hj]
    | false =>
      rw [show execOp (.ins i) s = exec i s from rfl, exec_issue hs hform hj, issueAs_issued hiq hreads]
      simp [isJalrOp, hj]
      rfl

/-- The issue stage at the head of iq: no stale tag. -/
theorem issueStage_form (hs : InFlight s) (hr : s.status = .running) (hiq : s.iq = r :: waiting)
    (hform : issueTableOp r.op = some form) :
    ∃ j k d, readOperands s r.pc form.j form.k form.data = .slots j k d ∧ SlotProduced s j ∧ SlotProduced s k ∧
      SlotProduced s d ∧ issueStage s = .next { issued form r waiting j k d s with
        jalrWait := if isJalrOp r.op = true ∧ s.jalrWait = .unissued then .waiting s.nextTag else s.jalrWait
        stage := .fetch } := by
  obtain ⟨j, k, d, hreads, hj, hk, hd, _⟩ := hs.readOperands r.pc form.j form.k form.data
  refine ⟨j, k, d, hreads, hj, hk, hd, ?_⟩
  rw [issueStage_cons hiq, execAt,
    execOp_issue_form (s := { s with stage := .issue }) (waiting := waiting) rfl hr hiq hform hreads]
  rfl

end

end Sys2Proof.Machine
end

section
/-! PROOFS. The issue stage hands a new entry to the unit of its kind, and fetch keeps iq supplied (40_cycle_issue_rename.md
R142, R143; 44_branch_fetch.md R320). -/

namespace Sys2Proof.Machine

/-! ### The kind of an entry by its pool -/

section

variable {o : Op} {form : IssueForm}

theorem aluKind_of_pool (h : issueTableOp o = some form) (hpool : form.pool = .alu) : AluKind o := by
  cases o with
  | nop => exact .inr (.inr (.inr rfl))
  | ins i => cases i <;> cases h <;> cases hpool <;> simp [AluKind, opKind, kindOf]

theorem mdKind_of_pool (h : issueTableOp o = some form) (hpool : form.pool = .md) : MdKind o := by
  cases o with
  | nop => cases h; cases hpool
  | ins i => exact kindOf_of_mdForm h hpool

theorem aguKind_of_pool (h : issueTableOp o = some form) (hpool : form.pool = .agu) : AguKind o := by
  cases o with
  | nop => cases h; cases hpool
  | ins i => cases i <;> cases h <;> cases hpool <;> simp [AguKind, opKind, kindOf]

/-- A store has its data from a register (R144). -/
theorem data_of_store {w : Width} (h : issueTableOp o = some form) (hk : opKind o = .store w) : form.data.isSome = true := by
  cases o with
  | nop => cases hk
  | ins i => cases i <;> cases hk <;> cases h <;> rfl

theorem latency_le {c : Config} (hwf : c.wf) (o : Op) : latency c o ≤ c.divLat := by
  obtain ⟨_, hdiv, _⟩ := hwf
  unfold latency
  split <;> omega

end

/-! ### The new entry -/

section

variable {s u : State} {form : IssueForm} {r : Decoded} {waiting : List Decoded} {j k d : Slot} {w : JalrWait}

/-- A new entry waits in its pool with all of its work before it. -/
theorem issued_due (hwf : s.cfg.wf) (hform : issueTableOp r.op = some form) :
    Due (issued form r waiting j k d s) s.nextTag (newRobEntry form r s.nextTag d) (longest s.cfg) := by
  obtain ⟨_, hdiv, hlat⟩ := hwf
  have three : 3 ≤ longest s.cfg := by simp only [longest]; omega
  have hlast (es : List RsEntry) : newRsEntry form r s.nextTag j k ∈ es ++ [newRsEntry form r s.nextTag j k] :=
    List.mem_append_right _ (List.mem_singleton_self _)
  cases hpool : form.pool with
  | alu =>
    refine .alu (newRsEntry form r s.nextTag j k) ?_ rfl (aluKind_of_pool hform hpool) (by omega) fun _ => three
    rw [issued, if_pos hpool]
    exact hlast _
  | md =>
    have hle := latency_le ⟨‹_›, hdiv, hlat⟩ r.op
    refine .md (newRsEntry form r s.nextTag j k) ?_ rfl (mdKind_of_pool hform hpool) (by omega) ?_
    · rw [issued]
      dsimp only
      rw [if_pos hpool]
      exact hlast _
    · simp only [longest, newRobEntry, issued]
      omega
  | agu =>
    have placed : newRsEntry form r s.nextTag j k ∈ (issued form r waiting j k d s).rsAgu := by
      rw [issued]
      dsimp only
      rw [if_pos hpool]
      exact hlast _
    have sourced {w : Width} (hk : opKind r.op = .store w) : Sourced (newRobEntry form r s.nextTag d) := by
      by_cases hq : d.q = 0
      · exact .inl (by simp [newRobEntry, data_of_store hform hk, hq])
      · exact .inr hq
    rcases aguKind_of_pool hform hpool with hk | ⟨w, hk⟩ | hk
    · exact .reserve _ placed rfl hk (by omega) fun _ => three
    · exact .address _ w placed rfl hk rfl (sourced hk) three
    · exact .buffer _ placed rfl hk rfl (by simp only [longest, issued]; omega)

theorem robAt_issued (ho : TagsInOrder s) (q : Tag) : robAt (issued form r waiting j k d s) q =
    if q = s.nextTag then some (newRobEntry form r s.nextTag d) else robAt s q := robAt_append ho rfl rfl

theorem mem_issued {es : List RsEntry} {e x : RsEntry} {p : Pool}
    (h : x ∈ if form.pool = p then es ++ [e] else es) : x ∈ es ∨ x = e := by
  split at h
  · exact (List.mem_append.1 h).imp_right List.mem_singleton.1
  · exact .inl h

theorem mem_issued_of {es : List RsEntry} {e x : RsEntry} {p : Pool} (h : x ∈ es) :
    x ∈ if form.pool = p then es ++ [e] else es := by
  split
  · exact List.mem_append_left _ h
  · exact h

theorem inPool_issued {e : RsEntry} (he : InPool (issued form r waiting j k d s) e) :
    InPool s e ∨ e = newRsEntry form r s.nextTag j k := by
  rcases he with he | he | he
  · exact (mem_issued he).imp_left .inl
  · exact (mem_issued he).imp_left fun h => .inr (.inl h)
  · exact (mem_issued he).imp_left fun h => .inr (.inr h)

/-- What an issue hands out keeps what gets the entries done: it waits for older entries. -/
theorem Roster.issued (hs : Roster s) (ho : TagsInOrder s) (hwf : s.cfg.wf) (hform : issueTableOp r.op = some form)
    (hj : SlotProduced s j) (hk : SlotProduced s k) (hd : SlotProduced s d) :
    Roster (issued form r waiting j k d s) := by
  have older {x : Slot} (hx : SlotProduced s x) (h0 : x.q ≠ 0) : x.q < s.nextTag := by
    obtain ⟨h, e, _⟩ := hx h0
    exact (robAt_range ho e).2
  refine ⟨fun q g eg => ?_, fun e he => ?_, fun q g eg h0 => ?_⟩
  · rw [robAt_issued ho] at eg
    split at eg
    · rename_i hq
      cases eg
      subst hq
      exact issued_due hwf hform
    · exact (hs.staffed q g eg).kept (.refl g) rfl hwf.2.2 (fun _ he _ => mem_issued_of he) (fun _ he _ => mem_issued_of he)
        (fun _ he _ => mem_issued_of he) fun _ hl _ => hl
  · rcases inPool_issued he with he | rfl
    · exact hs.older e he
    · exact ⟨older hj, older hk⟩
  · rw [robAt_issued ho] at eg
    split at eg
    · rename_i hq
      cases eg
      exact hq ▸ older hd h0
    · exact hs.data q g eg h0

/-! ### What the front end has before it -/

/-- Every record of iq can issue, and a JALR that has yet to issue is among them (44_branch_fetch.md R325). -/
structure Fed (s : State) : Prop where
  forms : ∀ r ∈ s.iq, ∃ form, issueTableOp r.op = some form
  stall : s.jalrWait = .unissued → ∃ r ∈ s.iq, isJalrOp r.op = true

theorem Fed.congr (hs : Fed s) (hiq : u.iq = s.iq) (hw : u.jalrWait = s.jalrWait) : Fed u :=
  ⟨hiq ▸ hs.forms, fun h => hiq ▸ hs.stall (hw.symm.trans h)⟩

theorem Fed.of_empty (hiq : s.iq = []) (hw : s.jalrWait = .none) : Fed s :=
  ⟨by simp [hiq], fun h => by cases hw.symm.trans h⟩

theorem Fed.issued (hs : Fed s) (hiq : s.iq = r :: waiting)
    (hu : u.iq = waiting)
    (hw : u.jalrWait = if isJalrOp r.op = true ∧ s.jalrWait = .unissued then .waiting s.nextTag else s.jalrWait) :
    Fed u := by
  refine ⟨fun x hx => hs.forms x (hiq ▸ List.mem_cons_of_mem _ (hu ▸ hx)), fun h => ?_⟩
  rw [hw] at h
  split at h
  · cases h
  · rename_i hn
    obtain ⟨x, hx, hj⟩ := hs.stall h
    rw [hiq] at hx
    rcases List.mem_cons.1 hx with rfl | hx
    · exact absurd ⟨hj, h⟩ hn
    · exact ⟨x, hu ▸ hx, hj⟩

theorem Fed.fetched (hs : Fed s) {next : Word} {v : State} (hv : v.iq = s.iq) (hr : ∃ form, issueTableOp r.op = some form) :
    Fed (fetchedState r next v) := by
  refine ⟨fun x hx => ?_, fun h => ⟨r, List.mem_append_right _ (List.mem_singleton_self r), ?_⟩⟩
  · rcases List.mem_append.1 (show x ∈ v.iq ++ [r] from hx) with hx | hx
    · exact hs.forms x (hv ▸ hx)
    · exact List.mem_singleton.1 hx ▸ hr
  · cases hj : isJalrOp r.op with
    | true => rfl
    | false => simp [fetchedState, hj] at h

end

end Sys2Proof.Machine
end

section
/-! PROOFS. A tick keeps every entry's work before it or done, and brings the head nearer to its commit
(70_reset_and_hazards.md R445). -/

namespace Sys2Proof.Machine

/-! ### The invariant over a tick -/

/-- At the start of a tick: the back end's invariant, and what gets every entry done. -/
structure OnDuty (s : State) : Prop extends TickStart s, Roster s, Fed s

/-- Between commit and broadcast. -/
structure Committing (c : Config) (s : State) : Prop extends Harvesting [] s, Roster s, Fed s where
  cfg : s.cfg = c

/-- Between broadcast and fetch. -/
structure Serving (c : Config) (s : State) : Prop extends Manned s, Fed s where
  cfg : s.cfg = c

section

variable {c : Config} {s u : State} {t : Tag} {h g : RobEntry} {younger : List RobEntry} {k : Nat}

theorem Roster.setStage (p : Stage) (hlat : 1 ≤ s.cfg.cacheLat) (hs : Roster s) : Roster { s with stage := p } :=
  hs.shrink hlat rfl rfl rfl rfl rfl fun _ _ => id

theorem Roster.restage {p : Stage} (hlat : 1 ≤ s.cfg.cacheLat) (hs : Roster { s with stage := p }) : Roster s :=
  hs.shrink hlat rfl rfl rfl rfl rfl fun _ _ => id

theorem HeadCommit.fed (hc : HeadCommit h younger s u) (hs : Fed s) : Fed u := by
  cases hc with
  | waits => exact hs
  | wrong => exact .of_empty rfl rfl
  | resumes => exact .of_empty rfl rfl
  | holds => exact hs.congr rfl rfl
  | other => exact hs.congr rfl rfl
  | writes => exact hs.congr rfl rfl
  | right => exact hs.congr rfl rfl
  | exits => exact hs.congr rfl rfl
  | faults => exact hs.congr rfl rfl

theorem OnDuty.commitStage (hs : OnDuty s) (hr : s.status = .running) (hlat : 1 ≤ s.cfg.cacheLat)
    (hx : commitStage s = .next u) : Goes (Committing s.cfg) (fun _ => True) u := by
  refine ⟨fun hu => ?_, fun _ => trivial⟩
  have harvesting := (hs.toTickStart.after_commitStage hr hx).1 hu
  cases hrob : s.rob with
  | nil =>
    cases (commitStage_empty hrob).symm.trans hx
    exact ⟨harvesting, hs.toRoster, hs.toFed, rfl⟩
  | cons h younger =>
    obtain ⟨v, hc, rfl⟩ := commitStage_head hrob hx
    have hcfg : v.cfg = s.cfg := hc.cfg
    have roster := hc.roster (hs.toRoster.setStage .commit hlat) hs.inFlight.order hlat hrob
    exact ⟨harvesting, roster.setStage _ (hcfg ▸ hlat), (hc.fed (hs.toFed.congr rfl rfl)).congr rfl rfl, hcfg⟩

theorem Committing.broadcastStage (hs : Committing c s) (hr : s.status = .running) (hx : broadcastStage s = .next u) :
    Serving c u ∧ u = broadcasted s ∧ u.status = .running ∧ harvestSet u = [] := by
  have inFlight := hs.toHarvesting.inFlight
  have next := hs.toHarvesting.after_broadcastStage hr hx
  cases (broadcastStage_eq inFlight hr).symm.trans hx
  exact ⟨⟨⟨hs.toRoster.broadcasted inFlight, next.1⟩, hs.toFed.congr rfl rfl, hs.cfg⟩, rfl, hr, harvestSet_broadcasted s⟩

/-- The execute stage keeps the back end's invariant. -/
theorem Manned.executeStage (hs : Manned s) (hlat : 1 ≤ s.cfg.cacheLat) (hr : s.status = .running)
    (hx : executeStage s = .next u) : Goes Manned (fun _ => True) u := by
  refine (executeStage_induction (P := fun v => Manned v ∧ v.cfg = s.cfg) (fun v w hvr ⟨hv, hcfg⟩ hvw => ?_) hr ⟨hs, rfl⟩
    hx).imp And.left
  have inFlight := hv.delivering.inFlight
  have unit {stageOf : Tag → Stage} {work : List (Tag × Op)} (visits : VisitKeeps stageOf 1) (ho : OpsKnown work v)
      (hvw : Machine.runEntries stageOf work v = .next w) : Goes (fun v => Manned v ∧ v.cfg = s.cfg) (fun _ => True) w :=
    (hv.runEntries (X := fun _ => True) visits (hcfg ▸ hlat) hvr ho (fun _ _ _ _ _ _ _ _ _ _ _ _ => trivial) trivial
      hvw).imp fun h => ⟨h.1.manned, h.1.cfg.trans hcfg⟩
  rcases hvw with hvw | hvw | hvw | hvw
  · exact unit execute_visitKeeps (inFlight.poolWork_known alu_inPool) hvw
  · exact unit execute_visitKeeps (inFlight.poolWork_known md_inPool) hvw
  · exact unit execute_visitKeeps (inFlight.poolWork_known agu_inPool) hvw
  · exact unit load_visitKeeps inFlight.lbWork_known hvw

theorem Serving.executeStage (hs : Serving c s) (hlat : 1 ≤ c.cacheLat) (hr : s.status = .running)
    (hx : executeStage s = .next u) : Goes (Serving c) (fun _ => True) u := by
  have frame := executeStage_backendOnly hr hx
  exact (hs.toManned.executeStage (hs.cfg ▸ hlat) hr hx).imp fun h =>
    ⟨h, hs.toFed.congr frame.iq frame.jalrWait, frame.cfg.trans hs.cfg⟩

/-- The issue stage of a state that goes on: nothing, or the head of iq with its form. -/
theorem Serving.issueStage_cases (hs : Serving c s) (hr : s.status = .running) (hx : issueStage s = .next u) :
    (s.iq = [] ∧ u = s) ∨ ∃ r waiting form j k d, s.iq = r :: waiting ∧ issueTableOp r.op = some form ∧
      SlotProduced s j ∧ SlotProduced s k ∧ SlotProduced s d ∧ u = { issued form r waiting j k d s with
        jalrWait := if isJalrOp r.op = true ∧ s.jalrWait = .unissued then .waiting s.nextTag else s.jalrWait
        stage := .fetch } := by
  cases hiq : s.iq with
  | nil =>
    rw [Machine.issueStage, hiq] at hx
    cases hx
    exact .inl ⟨rfl, rfl⟩
  | cons r waiting =>
    obtain ⟨form, hform⟩ := hs.forms r (hiq ▸ List.mem_cons_self)
    obtain ⟨j, k, d, _, hj, hk, hd, he⟩ := issueStage_form hs.delivering.inFlight hr hiq hform
    cases he.symm.trans hx
    exact .inr ⟨r, waiting, form, j, k, d, rfl, hform, hj, hk, hd, rfl⟩

theorem Serving.issueStage (hs : Serving c s) (hwf : c.wf) (hr : s.status = .running) (hx : issueStage s = .next u) :
    Goes (Serving c) (fun _ => True) u := by
  have hlat : 1 ≤ s.cfg.cacheLat := hs.cfg ▸ hwf.2.2
  refine ⟨fun hu => ?_, fun _ => trivial⟩
  have delivering := (hs.delivering.after_issueStage hr hx).1 hu
  rcases hs.issueStage_cases hr hx with ⟨_, rfl⟩ | ⟨r, waiting, form, j, k, d, hiq, hform, hj, hk, hd, rfl⟩
  · exact hs
  · have roster : Roster (issued form r waiting j k d s) :=
      hs.toRoster.issued hs.delivering.inFlight.order (hs.cfg ▸ hwf) hform hj hk hd
    exact ⟨⟨roster.shrink hlat rfl rfl rfl rfl rfl fun _ _ => id, delivering⟩, hs.toFed.issued hiq rfl rfl, hs.cfg⟩

theorem Serving.fetchStage (hs : Serving c s) (hwf : c.wf) (hr : s.status = .running) (hx : fetchStage s = .next u) :
    Goes (fun u => OnDuty u ∧ u.cfg = c) (fun _ => True) u := by
  refine ⟨fun hu => ?_, fun _ => trivial⟩
  have start := (hs.delivering.after_fetchStage hr hx).1 hu
  rcases fetchStage_fetched hx hu with ⟨_, rfl⟩ | ⟨pc, i, r, next, _, _, _, hf, rfl⟩
  · exact ⟨⟨start, hs.toRoster, hs.toFed⟩, hs.cfg⟩
  · exact ⟨⟨start, hs.toRoster.shrink (hs.cfg ▸ hwf.2.2) rfl rfl rfl rfl rfl fun _ _ => id,
      hs.toFed.fetched rfl hf.form⟩, hs.cfg⟩

theorem OnDuty.endTick (hs : OnDuty s) (hlat : 1 ≤ s.cfg.cacheLat) (n : Nat) : OnDuty { s with cycle := n } :=
  ⟨hs.toTickStart.congr rfl rfl, hs.toRoster.shrink hlat rfl rfl rfl rfl rfl fun _ _ => id, hs.toFed.congr rfl rfl⟩

/-- Every step keeps the invariant, or ends the run. -/
theorem OnDuty.after_step (hs : OnDuty s) (hwf : s.cfg.wf) (hx : step s = .next u) :
    Goes (fun u => OnDuty u ∧ u.cfg = s.cfg) (fun _ => True) u :=
  step_induction hx (fun _ => hs.commitStage (step_next hx).1 hwf.2.2)
    (fun _ _ hr ha hb => have next := ha.broadcastStage hr hb; .running next.2.2.1 next.1)
    (fun _ _ hr hb => hb.executeStage hwf.2.2 hr) (fun _ _ hr hc => hc.issueStage hwf hr)
    (fun _ _ hr hd => hd.fetchStage hwf hr) fun _ _ ⟨he, hcfg⟩ => ⟨he.endTick (hcfg ▸ hwf.2.2) _, hcfg⟩

end

end Sys2Proof.Machine
end

section
/-! PROOFS. Every run goes on committing: the bound on the ticks to the next commit (70_reset_and_hazards.md R445). -/

namespace Sys2Proof.Machine

/-! ### The head over a tick -/

section

variable {c : Config} {s u : State} {t : Tag} {h g : RobEntry} {younger : List RobEntry} {k : Nat}

theorem tagPresent_iff : TagPresent s t ↔ ∃ h, robAt s t = some h := mem_robTags_iff.symm.trans List.mem_map |>.symm

/-- Where the head has left the reorder buffer behind the commit stage, it has been committed. -/
theorem committedBy_of_left (hrob : s.rob = h :: younger) (hx : commitStage s = .next u) (hnone : robAt u h.tag = none) :
    committedBy s ≠ [] := by
  have absent : ¬ TagPresent (afterCommit s) h.tag := by
    rw [afterCommit_next hx, tagPresent_iff]
    rintro ⟨g, e⟩
    cases hnone.symm.trans e
  rw [committedBy, hrob]
  dsimp only
  rw [if_neg absent]
  exact List.cons_ne_nil _ _

theorem Due.restage {p : Stage} (hlat : 1 ≤ s.cfg.cacheLat) (d : Due { s with stage := p } t h k) : Due s t h k :=
  d.kept (.refl h) rfl hlat (fun _ he _ => he) (fun _ he _ => he) (fun _ he _ => he) fun _ hl _ => hl

theorem AtHead.imp {P Q : State → RobEntry → Prop} (a : AtHead t P s) (hpq : ∀ g, P s g → Q u g)
    (hrob : u.rob = s.rob) : AtHead t Q u := by
  obtain ⟨g, rest, htags, eg, hg⟩ := a
  exact ⟨g, rest, (congrArg (List.map fun h : RobEntry => h.tag) hrob).trans htags, (robAt_congr hrob t).trans eg, hpq g hg⟩

/-- The commit stage: the head is committed, or nearly due. -/
theorem OnDuty.commit_head (hs : OnDuty s) (hlat : 1 ≤ s.cfg.cacheLat) (hrob : s.rob = h :: younger)
    (d : Due s h.tag h (k + 1)) (hx : Machine.commitStage s = .next u) (hu : u.status = .running) :
    committedBy s ≠ [] ∨ AtHead h.tag (NearlyDue h.tag k) u := by
  obtain ⟨v, hc, rfl⟩ := commitStage_head hrob hx
  have hcfg : v.cfg = s.cfg := hc.cfg
  have announced : Announced [] { s with stage := .commit } := hs.announced
  rcases hc.progress (hs.toRoster.setStage .commit hlat) hs.inFlight.order announced hlat hrob (d.setStage _ hlat) hu with
    hnone | hnear
  · exact .inl (committedBy_of_left hrob hx hnone)
  · refine .inr (hnear.imp (fun g hg => ?_) rfl)
    exact hg.imp (Due.setStage _ (hcfg ▸ hlat)) fun ⟨hd, hn⟩ => ⟨hd.setStage _ (hcfg ▸ hlat), hn⟩

/-- A message brings a store only the data it waits for. -/
theorem Addressed.of_broadcast (ha : Addressed (robBroadcast s g)) (hms : ∀ m ∈ messages s, m.tag ≠ 0) : Addressed g := by
  have hins := (robBroadcast_stays s g).ins
  have hw : storeWidth g.ins.op ≠ none := hins ▸ ha.store
  have hk : isSyscall g.ins.op = false := by
    cases hk : isSyscall g.ins.op with
    | false => rfl
    | true => exact absurd (by simp [storeWidth, (beq_iff_eq.1 hk : opKind g.ins.op = .syscall)]) hw
  have marked : (robHarvested (harvestSet s) g).addrReady = g.addrReady ∧
      (robHarvested (harvestSet s) g).valueReady = g.valueReady ∧ (robHarvested (harvestSet s) g).storeQ = g.storeQ := by
    rcases robHarvested_cases (harvestSet s) g with ⟨x, _, _, he⟩ | ⟨_, he⟩
    · rw [he, markEntry, hk]
      exact ⟨rfl, rfl, rfl⟩
    · rw [he]
      exact ⟨rfl, rfl, rfl⟩
  obtain ⟨haddr, hvalue, hq⟩ := marked
  have hready := ha.addr
  have hsource := ha.source
  unfold robBroadcast robHeard at hready
  unfold Sourced robBroadcast robHeard at hsource
  split at hready
  · rename_i m hm
    have htag : m.tag = (robHarvested (harvestSet s) g).storeQ := by simpa using List.find?_some hm
    refine ⟨hw, haddr ▸ hready, .inr ?_⟩
    rw [← hq, ← htag]
    exact hms m (List.mem_of_find?_eq_some hm)
  · rename_i hm
    rw [hm] at hsource
    exact ⟨hw, haddr ▸ hready, hsource.imp (hvalue ▸ ·) (hq ▸ ·)⟩

/-- The broadcast stage: the head is still nearly due. -/
theorem AtHead.broadcasted (a : AtHead t (NearlyDue t k) s) (hs : InFlight s) (hlat : 1 ≤ s.cfg.cacheLat) :
    AtHead t (NearlyDue t k) (broadcasted s) := by
  obtain ⟨g, rest, htags, eg, hg⟩ := a
  refine ⟨robBroadcast s g, rest, (robTags_broadcasted s).trans htags, by rw [robAt_broadcasted, eg]; rfl, ?_⟩
  rcases hg with hd | ⟨hd, hready, haddr⟩
  · exact .inl (hd.broadcasted hs eg)
  · by_cases hr : Ready (robBroadcast s g)
    · exact .inl (.ready hr (Nat.le_of_succ_le_succ (hd.two_le hready hlat)))
    · exact .inr ⟨hd.broadcasted hs eg, hr, fun ha => haddr (ha.of_broadcast (messages_tag hs.order))⟩

/-- The execute stage: the head is due. -/
theorem Serving.executeStage_head (hs : Serving c s) (hlat : 1 ≤ c.cacheLat) (hr : s.status = .running)
    (hnone : harvestSet s = []) (a : AtHead t (NearlyDue t k) s) (hx : Machine.executeStage s = .next u) :
    Goes (AtHead t (fun u g => Due u t g k)) (fun _ => True) u := by
  obtain ⟨g, rest, htags, eg, hg⟩ := a
  have hlat : 1 ≤ s.cfg.cacheLat := hs.cfg ▸ hlat
  have nearer : Goes (Nearer t g k s) (fun _ => True) u := by
    rcases hg with hd | ⟨hd, hready, haddr⟩
    · exact Nearer.executeStage ⟨hs.toManned, rfl, g, eg, .refl g, hd⟩ hlat hr hx
    · exact hs.toManned.executeStage_head hlat hr hnone htags eg hd hready haddr hx
  refine nearer.imp fun hn => ?_
  obtain ⟨g', eg', _, hd⟩ := hn.due
  exact ⟨g', rest, (executeStage_backendOnly hr hx).tags.trans htags, eg', hd⟩

/-- The issue stage appends behind the head. -/
theorem Serving.issueStage_head (hs : Serving c s) (hlat : 1 ≤ c.cacheLat) (hr : s.status = .running)
    (a : AtHead t (fun u g => Due u t g k) s) (hx : Machine.issueStage s = .next u) :
    AtHead t (fun u g => Due u t g k) u := by
  have hlat : 1 ≤ s.cfg.cacheLat := hs.cfg ▸ hlat
  rcases hs.issueStage_cases hr hx with ⟨_, rfl⟩ | ⟨r, waiting, form, j, k', d, hiq, hform, hj, hk, hd, rfl⟩
  · exact a
  · obtain ⟨g, rest, htags, eg, hg⟩ := a
    have order := hs.delivering.inFlight.order
    refine ⟨g, rest ++ [s.nextTag], ?_, (robAt_issued (j := j) (k := k') (waiting := waiting) order t).trans ?_, ?_⟩
    · rw [robTags] at htags ⊢
      exact List.map_append.trans (congrArg (· ++ [s.nextTag]) htags)
    · rw [if_neg (Nat.ne_of_lt (robAt_range order eg).2), eg]
    · exact hg.kept (.refl g) rfl hlat (fun _ he _ => mem_issued_of he) (fun _ he _ => mem_issued_of he)
        (fun _ he _ => mem_issued_of he) fun _ hl _ => hl

theorem Serving.fetchStage_head (hs : Serving c s) (hlat : 1 ≤ c.cacheLat)
    (a : AtHead t (fun u g => Due u t g k) s) (hx : Machine.fetchStage s = .next u) (hu : u.status = .running) :
    AtHead t (fun u g => Due u t g k) u := by
  have hlat : 1 ≤ s.cfg.cacheLat := hs.cfg ▸ hlat
  rcases fetchStage_fetched hx hu with ⟨_, rfl⟩ | ⟨pc, i, r, next, _, _, _, _, rfl⟩
  · exact a
  · exact a.imp (fun g hg => hg.kept (.refl g) rfl hlat (fun _ he _ => he) (fun _ he _ => he) (fun _ he _ => he)
      fun _ hl _ => hl) rfl

/-- A tick brings the head one tick nearer to its commit, unless it commits it or ends the run. -/
theorem OnDuty.step_head (hs : OnDuty s) (hwf : s.cfg.wf) (hrob : s.rob = h :: younger) (d : Due s h.tag h (k + 1))
    (hx : step s = .next u) (hu : u.status = .running) :
    committedBy s ≠ [] ∨ AtHead h.tag (fun u g => Due u h.tag g k) u := by
  have hlat := hwf.2.2
  by_cases hcommitted : committedBy s ≠ []
  · exact .inl hcommitted
  refine .inr ((step_induction (Q := AtHead h.tag fun u g => Due u h.tag g k)
    (C := fun a => Committing s.cfg a ∧ AtHead h.tag (NearlyDue h.tag k) a)
    (B := fun b => Serving s.cfg b ∧ harvestSet b = [] ∧ AtHead h.tag (NearlyDue h.tag k) b)
    (X := fun c => Serving s.cfg c ∧ AtHead h.tag (fun u g => Due u h.tag g k) c)
    (I := fun d => Serving s.cfg d ∧ AtHead h.tag (fun u g => Due u h.tag g k) d)
    (F := fun e => e.cfg = s.cfg ∧ AtHead h.tag (fun u g => Due u h.tag g k) e) (S := fun _ => True) hx
    (fun a ha => ?_) (fun a b har ⟨ha, hhead⟩ hb => ?_) (fun b c hbr ⟨hb, hnone, hhead⟩ hc => ?_)
    (fun c d hcr ⟨hc, hhead⟩ hd => ?_) (fun d e hdr ⟨hd, hhead⟩ he => ?_) fun e _ ⟨hcfg, hhead⟩ => ?_).1 hu)
  · refine ⟨fun har => ⟨(hs.commitStage (step_next hx).1 hlat ha).1 har, ?_⟩, fun _ => trivial⟩
    exact (hs.commit_head hlat hrob d ha har).resolve_left hcommitted
  · obtain ⟨serving, rfl, hbr, hnone⟩ := ha.broadcastStage har hb
    exact .running hbr ⟨serving, hnone, hhead.broadcasted ha.toHarvesting.inFlight (ha.cfg ▸ hlat)⟩
  · exact ⟨fun hcr => ⟨(hb.executeStage hlat hbr hc).1 hcr, (hb.executeStage_head hlat hbr hnone hhead hc).1 hcr⟩,
      fun _ => trivial⟩
  · exact ⟨fun hdr => ⟨(hc.issueStage hwf hcr hd).1 hdr, hc.issueStage_head hlat hcr hhead hd⟩, fun _ => trivial⟩
  · exact ⟨fun her => ⟨((hd.fetchStage hwf hdr he).1 her).2, hd.fetchStage_head hlat hhead he her⟩, fun _ => trivial⟩
  · exact hhead.imp (fun g hg => hg.kept (.refl g) rfl (hcfg ▸ hlat) (fun _ he _ => he) (fun _ he _ => he)
      (fun _ he _ => he) fun _ hl _ => hl) rfl

/-! ### From any state to the next commit -/

theorem rob_of_robTags {rest : List Tag} (htags : robTags s = t :: rest) (eg : robAt s t = some g) :
    ∃ younger, s.rob = g :: younger ∧ g.tag = t := by
  cases hrob : s.rob with
  | nil => simp [robTags, hrob] at htags
  | cons h younger =>
    have ht : h.tag = t := by
      rw [robTags, hrob] at htags
      exact (List.cons.inj htags).1
    have found := robAt_head hrob
    rw [ht, eg] at found
    cases found
    exact ⟨younger, rfl, ht⟩

/-- The run ends or commits within `k` ticks. -/
def CommitsWithin (k : Nat) (s : State) : Prop :=
  ∃ m t, m ≤ k ∧ core.run m s = .next t ∧ (t.status ≠ .running ∨ commitTrace m s ≠ [])

theorem CommitsWithin.stopped (hx : step s = .next u) (hu : u.status ≠ .running) : CommitsWithin (k + 1) s :=
  ⟨1, u, by omega, by simp [Host.Core.run, core, hx], .inl hu⟩

theorem CommitsWithin.committed (hx : step s = .next u) (hc : committedBy s ≠ []) : CommitsWithin (k + 1) s :=
  ⟨1, u, by omega, by simp [Host.Core.run, core, hx], .inr (by simp [commitTrace_succ 0 hx, hc])⟩

theorem CommitsWithin.step (hx : step s = .next u) (h : CommitsWithin k u) : CommitsWithin (k + 1) s := by
  obtain ⟨m, t, hm, hrun, hdone⟩ := h
  refine ⟨m + 1, t, by omega, ?_, hdone.imp_right fun hc => ?_⟩
  · simp only [Host.Core.run, core, hx]
    exact hrun
  · rw [commitTrace_succ m hx]
    simp [hc]

/-- The head's remaining ticks bound the ticks to the next commit. -/
theorem OnDuty.commitsWithin_head (k : Nat) : ∀ {s : State} {h : RobEntry} {younger : List RobEntry}, OnDuty s → s.cfg.wf →
    s.status = .running → s.rob = h :: younger → Due s h.tag h k → CommitsWithin k s := by
  induction k with
  | zero => exact fun _ _ _ _ d => absurd d.pos (by omega)
  | succ k ih =>
    intro s h younger hs hwf hr hrob d
    obtain ⟨u, hx⟩ := step_answers hr
    by_cases hu : u.status = .running
    · rcases hs.step_head hwf hrob d hx hu with hc | ⟨g, rest, htags, eg, hd⟩
      · exact .committed hx hc
      · obtain ⟨duty, hcfg⟩ := (hs.after_step hwf hx).1 hu
        obtain ⟨younger', hrob', ht⟩ := rob_of_robTags htags eg
        exact (ih duty (hcfg ▸ hwf) hu hrob' (ht ▸ hd)).step hx
    · exact .stopped hx hu

/-- An empty reorder buffer takes the head of iq; an empty iq takes a fetched record. -/
theorem OnDuty.step_fills (hs : OnDuty s) (hwf : s.cfg.wf) (hrob : s.rob = []) (hx : step s = .next u)
    (hu : u.status = .running) : u.rob ≠ [] ∨ s.iq = [] ∧ u.iq ≠ [] := by
  have hlat := hwf.2.2
  refine (step_induction (Q := fun u => u.rob ≠ [] ∨ s.iq = [] ∧ u.iq ≠ [])
    (C := fun a => Committing s.cfg a ∧ a.rob = [] ∧ a.iq = s.iq)
    (B := fun b => Serving s.cfg b ∧ b.rob = [] ∧ b.iq = s.iq)
    (X := fun c => Serving s.cfg c ∧ c.rob = [] ∧ c.iq = s.iq)
    (I := fun d => Serving s.cfg d ∧ (d.rob ≠ [] ∨ s.iq = [] ∧ d.iq = [] ∧ d.rob = []))
    (F := fun e => e.rob ≠ [] ∨ s.iq = [] ∧ e.iq ≠ []) (S := fun _ => True) hx
    (fun a ha => ?_) (fun a b har ⟨ha, hrob, hiq⟩ hb => ?_) (fun b c hbr ⟨hb, hrob, hiq⟩ hc => ?_)
    (fun c d hcr ⟨hc, hrob, hiq⟩ hd => ?_) (fun d e hdr ⟨hd, hfull⟩ he => ?_) fun e _ he => he).1 hu
  · refine ⟨fun har => ⟨(hs.commitStage (step_next hx).1 hlat ha).1 har, ?_⟩, fun _ => trivial⟩
    cases (commitStage_empty hrob).symm.trans ha
    exact ⟨hrob, rfl⟩
  · obtain ⟨serving, rfl, hbr, _⟩ := ha.broadcastStage har hb
    exact .running hbr ⟨serving, by simp [Machine.broadcasted, hrob], hiq⟩
  · have frame := executeStage_backendOnly hbr hc
    refine ⟨fun hcr => ⟨(hb.executeStage hlat hbr hc).1 hcr, ?_, frame.iq.trans hiq⟩, fun _ => trivial⟩
    have tags := frame.tags
    rw [robTags, robTags, hrob] at tags
    exact List.map_eq_nil_iff.1 tags
  · refine ⟨fun hdr => ⟨(hc.issueStage hwf hcr hd).1 hdr, ?_⟩, fun _ => trivial⟩
    rcases hc.issueStage_cases hcr hd with ⟨hempty, rfl⟩ | ⟨r, waiting, form, j, k, d, _, _, _, _, _, rfl⟩
    · exact .inr ⟨hiq.symm.trans hempty, hempty, hrob⟩
    · exact .inl (by simp [issued])
  · refine ⟨fun her => ?_, fun _ => trivial⟩
    rcases fetchStage_fetched he her with ⟨hwait, rfl⟩ | ⟨pc, i, r, next, _, _, _, _, rfl⟩
    · refine hfull.imp_right fun ⟨hiq, hempty, hrob⟩ => ?_
      rcases hwait with hw | ⟨t, hw⟩
      · obtain ⟨r, hr, _⟩ := hd.stall hw
        rw [hempty] at hr
        cases hr
      · obtain ⟨x, hx, _⟩ := hd.delivering.jalr t hw
        obtain ⟨h, eh, _⟩ := hd.delivering.inFlight.pool_owner (alu_inPool x hx)
        have := robAt_mem eh
        rw [hrob] at this
        cases this
    · exact hfull.imp_right fun ⟨hiq, _⟩ => ⟨hiq, by simp [fetchedState]⟩

theorem OnDuty.commitsWithin_filled (hs : OnDuty s) (hwf : s.cfg.wf) (hr : s.status = .running) (hrob : s.rob ≠ []) :
    CommitsWithin (longest s.cfg) s := by
  obtain ⟨h, younger, hrob⟩ := List.exists_cons_of_ne_nil hrob
  exact hs.commitsWithin_head _ hwf hr hrob (hs.staffed h.tag h (robAt_head hrob))

theorem CommitsWithin.mono {n : Nat} (h : CommitsWithin k s) (hkn : k ≤ n) : CommitsWithin n s := by
  obtain ⟨m, t, hm, hrest⟩ := h
  exact ⟨m, t, Nat.le_trans hm hkn, hrest⟩

/-- A run that goes on fills the reorder buffer, and its head commits in time. -/
theorem OnDuty.commitsWithin (hs : OnDuty s) (hwf : s.cfg.wf) (hr : s.status = .running) :
    CommitsWithin (longest s.cfg + 2) s := by
  have filled {v : State} (hv : OnDuty v) (hcfg : v.cfg = s.cfg) (hvr : v.status = .running) (hrob : v.rob ≠ []) :
      CommitsWithin (longest s.cfg) v := hcfg ▸ hv.commitsWithin_filled (hcfg ▸ hwf) hvr hrob
  by_cases hrob : s.rob = []
  · obtain ⟨u, hx⟩ := step_answers hr
    by_cases hu : u.status = .running
    · obtain ⟨duty, hcfg⟩ := (hs.after_step hwf hx).1 hu
      refine CommitsWithin.step hx ?_
      by_cases hurob : u.rob = []
      · obtain ⟨_, hiq⟩ := (hs.step_fills hwf hrob hx hu).resolve_left (absurd hurob)
        obtain ⟨v, hxv⟩ := step_answers hu
        by_cases hv : v.status = .running
        · obtain ⟨dutyv, hcfgv⟩ := (duty.after_step (hcfg ▸ hwf) hxv).1 hv
          have hvrob := (duty.step_fills (hcfg ▸ hwf) hurob hxv hv).resolve_right fun h => hiq h.1
          exact (filled dutyv (hcfgv.trans hcfg) hv hvrob).step hxv
        · exact .stopped hxv hv
      · exact (filled duty hcfg hu hurob).mono (Nat.le_succ _)
    · exact .stopped hx hu
  · exact (filled hs rfl hr hrob).mono (by omega)

end

theorem launch_onDuty (cfg : Config) (entry : Word) (regs : RegFile) (mem : Memory) :
    OnDuty (State.launch cfg entry regs mem) :=
  ⟨launch_tickStart cfg entry regs mem, .of_empty rfl rfl rfl rfl, .of_empty rfl rfl⟩

/-- Everything in flight in a run has its work done or before it. -/
theorem reaches_onDuty {cfg : Config} {entry : Word} {regs : RegFile} {mem : Memory} {n : Nat} {s : State} (hwf : cfg.wf)
    (h : Reaches cfg entry regs mem n s) : Goes (fun s => OnDuty s ∧ s.cfg = cfg) (fun _ => True) s := by
  refine run_induction (P := Goes (fun s => OnDuty s ∧ s.cfg = cfg) fun _ => True) (fun s t hs hx => ?_) n _ s
    (.running rfl ⟨launch_onDuty cfg entry regs mem, rfl⟩) h
  obtain ⟨duty, hcfg⟩ := hs.1 (step_next hx).1
  exact (duty.after_step (hcfg ▸ hwf) hx).imp fun ⟨hd, hc⟩ => ⟨hd, hc.trans hcfg⟩

/-- Settles O60: the head's remaining work bounds the ticks to the next commit, and an empty core fetches and issues
first. -/
theorem runsKeepCommitting : Obligations.RunsKeepCommitting := by
  intro cfg entry regs mem n s hwf hreach hr
  obtain ⟨duty, rfl⟩ := (reaches_onDuty hwf hreach).1 hr
  exact duty.commitsWithin hwf hr

end Sys2Proof.Machine
end

section
/-! PROOFS. One record of the core as a step of sequential execution, with the operands and the result the core has for it
(70_reset_and_hazards.md R448; 30_encoding.md R111). -/

namespace Sys2Proof.Machine

/-! ### The operands of a record in a sequential state -/

/-- The issue form of a record; NOP's where it has none (30_encoding.md R111). -/
def formOf (r : Decoded) : IssueForm := (issueTableOp r.op).getD (aluForm (.const 0) (.const 0) 0)

/-- The destination of a record. -/
def destOf (r : Decoded) : Reg := (formOf r).dest

/-- Its first operand, read in the sequential state `q`. -/
def operandJ (r : Decoded) (q : InOrder) : Word := operandValue q.read r.pc (formOf r).j

/-- Its second operand. -/
def operandK (r : Decoded) (q : InOrder) : Word := operandValue q.read r.pc (formOf r).k

/-- The address of its access (43_load_store_amo.md R260). -/
def addressOf (r : Decoded) (q : InOrder) : Word := operandJ r q + (formOf r).a

/-- The data of a store (40_cycle_issue_rename.md R144). -/
def dataOf (r : Decoded) (q : InOrder) : Word := dataValue q.read (formOf r).data

/-! ### One record of sequential execution -/

/-- One record in the sequential state `q`: none where sequential execution stops, leaves the path that fetch has taken
(a branch that was predicted wrong), or asks the dispatcher (ECALL). -/
def follow (c : Config) (q : InOrder) (r : Decoded) : Option InOrder :=
  match r.op with
  | .nop => some { q with pc := q.pc + 4 }
  | .ins i =>
    match branchShape i q.read with
    | some (taken, imm) => if r.pred = taken then some { q with pc := if taken then q.pc + imm else q.pc + 4 } else none
    | none => (inOrderEffect c i q).map fun u => { u with pc := followingPc i q }

/-- What fetch makes of the instruction `i` (44_branch_fetch.md R323, R334). -/
def recordOp (i : Instr) : Op := if kindOf i = .suppressed then .nop else .ins i

/-- The record is what fetch makes of the word that `m` holds at its pc. -/
structure Genuine (c : Config) (m : Memory) (r : Decoded) : Prop where
  allowed : Allowed c r.pc 4
  decodes : ∃ i, decodeWord (memRead m r.pc 4) = .ok i ∧ r.op = recordOp i
  form : issueTableOp r.op = some (formOf r)

section

variable {c : Config} {q u : InOrder} {r : Decoded} {i : Instr} {v w : Word}

theorem formOf_eq {form : IssueForm} (h : issueTableOp r.op = some form) : formOf r = form := by
  rw [formOf, h, Option.getD_some]

theorem follow_nop (h : r.op = .nop) : follow c q r = some { q with pc := q.pc + 4 } := by
  rw [follow, h]

theorem branchShape_none (h : kindOf i ≠ .branch) (x : Reg → Word) : branchShape i x = none := by
  cases i <;> first
    | rfl
    | exact absurd rfl h

theorem follow_ins (hop : r.op = .ins i) (h : kindOf i ≠ .branch) :
    follow c q r = (inOrderEffect c i q).map fun u => { u with pc := followingPc i q } := by
  rw [follow, hop]
  dsimp only
  rw [branchShape_none h]

theorem follow_branch {taken : Bool} {imm : Word} (hop : r.op = .ins i) (h : branchShape i q.read = some (taken, imm)) :
    follow c q r =
      if r.pred = taken then some { q with pc := if taken then q.pc + imm else q.pc + 4 } else none := by
  rw [follow, hop]
  dsimp only
  rw [h]

/-- The offset of a branch does not depend on the registers. -/
theorem branchShape_offset {taken : Bool} {imm : Word} {x : Reg → Word} (h : branchShape i x = some (taken, imm))
    (y : Reg → Word) : ∃ taken', branchShape i y = some (taken', imm) := by
  cases i <;> cases h <;> exact ⟨_, rfl⟩

/-! ### The effect of each kind -/

theorem effect_alu (h : kindOf i = .alu) (x : Reg → Word) (pc : Word) :
    ∃ rd v, inOrderValue i x pc = some (rd, v) := by
  cases i <;> cases h <;> exact ⟨_, _, rfl⟩

theorem follow_alu (hop : r.op = .ins i) (h : kindOf i = .alu) (hpc : q.pc = r.pc) :
    ∃ v, aluTable i (operandJ r q) (operandK r q) r.pc = some v ∧
      follow c q r = some { q.write (destOf r) v with pc := followingPc i q } := by
  obtain ⟨rd, v, hv⟩ := effect_alu h q.read q.pc
  obtain ⟨_, form, hform, hdest, htable⟩ := inOrderValue_tables hv
  have hf : formOf r = form := formOf_eq (by rw [hop]; exact hform)
  refine ⟨v, by rw [operandJ, operandK, hf, ← hpc]; exact htable, ?_⟩
  rw [follow_ins hop (by simp [h]), inOrderEffect, hv, destOf, hf, hdest]
  rfl

/-- An instruction that is no jump goes on behind itself. -/
theorem followingPc_next (h : kindOf i ≠ .alu) (q : InOrder) : followingPc i q = q.pc + 4 := by
  cases i <;> first
    | rfl
    | exact absurd rfl h

theorem inOrderValue_none (h : kindOf i ≠ .alu) (x : Reg → Word) (pc : Word) : inOrderValue i x pc = none := by
  cases i <;> first
    | rfl
    | exact absurd rfl h

theorem loadShape_none (h : kindOf i ≠ .load) : loadShape i = none := by
  cases i <;> first
    | rfl
    | exact absurd rfl h

theorem storeShape_none (h : ∀ w, kindOf i ≠ .store w) : storeShape i = none := by
  cases i <;> first
    | rfl
    | exact absurd rfl (h _)

theorem form_md (h : kindOf i = .mul ∨ kindOf i = .div) : ∃ a b rd, issueTable i = some (mdForm a b rd) := by
  rcases h with h | h <;> cases i <;> cases h <;> exact ⟨_, _, _, rfl⟩

theorem form_amo (h : kindOf i = .amo) : ∃ a b rd, issueTable i = some (amoForm a b rd) := by
  cases i <;> cases h <;> exact ⟨_, _, _, rfl⟩

theorem form_loadReserved (h : kindOf i = .loadReserved) :
    ∃ a rd, issueTable i = some ⟨.agu, .reg a, .const 0, 0, rd, none⟩ := by
  cases i <;> cases h
  exact ⟨_, _, rfl⟩

theorem formOf_ins {form : IssueForm} (hop : r.op = .ins i) (h : issueTable i = some form) : formOf r = form :=
  formOf_eq (by rw [hop]; exact h)

theorem follow_md (hop : r.op = .ins i) (h : kindOf i = .mul ∨ kindOf i = .div) :
    follow c q r = (mdValue c i (operandJ r q) (operandK r q)).map fun v =>
      { q.write (destOf r) v with pc := q.pc + 4 } := by
  have not {k : Kind} (hm : Kind.mul ≠ k) (hd : Kind.div ≠ k) : kindOf i ≠ k := by rcases h with h | h <;> simpa [h]
  obtain ⟨a, b, rd, hform⟩ := form_md h
  have hf := formOf_ins hop hform
  rw [follow_ins hop (not (by simp) (by simp)), inOrderEffect, inOrderValue_none (not (by simp) (by simp)),
    loadShape_none (not (by simp) (by simp)), storeShape_none fun w => not (by simp) (by simp), hform]
  simp [mdForm, operandJ, operandK, destOf, hf, operandValue, followingPc_next (not (by simp) (by simp)),
    Function.comp_def]

theorem follow_load {wl : Width} {sign : Bool} {rd a : Reg} {imm : Word} (hop : r.op = .ins i)
    (h : loadShape i = some (wl, sign, rd, a, imm)) :
    follow c q r = if Allowed c (addressOf r q) (widthBytes wl) then
      some { q.write (destOf r) (loadedValue wl sign (memRead q.mem (addressOf r q) (widthBytes wl))) with
        pc := q.pc + 4 } else none := by
  obtain ⟨hform, hk, _⟩ := loadShape_form h
  have hf := formOf_ins hop hform
  rw [follow_ins hop (by simp [hk]), inOrderEffect, inOrderValue_none (by simp [hk]), h]
  simp only [loadForm, addressOf, operandJ, destOf, hf, operandValue, followingPc_next (i := i) (by simp [hk])]
  split <;> rfl

theorem follow_store {ws : Width} {a b : Reg} {imm : Word} (hop : r.op = .ins i)
    (h : storeShape i = some (ws, a, b, imm)) :
    follow c q r = if Allowed c (addressOf r q) (widthBytes ws) then
      some { q with mem := memWrite q.mem (addressOf r q) (widthBytes ws) (dataOf r q), pc := q.pc + 4 } else none := by
  obtain ⟨hform, hk, _⟩ := storeShape_form h
  have hf := formOf_ins hop hform
  rw [follow_ins hop (by simp [hk]), inOrderEffect, inOrderValue_none (by simp [hk]), loadShape_none (by simp [hk]), h]
  simp only [storeForm, addressOf, operandJ, dataOf, dataValue, hf, operandValue, followingPc_next (i := i) (by simp [hk])]
  split <;> rfl

theorem follow_amo (hop : r.op = .ins i) (h : kindOf i = .amo) :
    follow c q r = if Allowed c (addressOf r q) 4 then
      (amoTable i (memRead q.mem (addressOf r q) 4) (operandK r q)).map fun new =>
        { q.write (destOf r) (amoResult c i (memRead q.mem (addressOf r q) 4)) with
          mem := memWrite q.mem (addressOf r q) 4 new, pc := q.pc + 4 } else none := by
  obtain ⟨a, b, rd, hform⟩ := form_amo h
  have hf := formOf_ins hop hform
  have haddr : addressOf r q = q.read a := by simp [addressOf, operandJ, hf, amoForm, operandValue]
  have hsrc : operandK r q = q.read b := by rw [operandK, hf]; rfl
  have hdest : destOf r = rd := by rw [destOf, hf]; rfl
  rw [haddr, hsrc, hdest, follow_ins hop (by simp [h]), inOrderEffect, inOrderValue_none (by simp [h]),
    loadShape_none (by simp [h]), storeShape_none (by simp [h]), hform]
  simp only [amoForm, followingPc_next (i := i) (by simp [h])]
  by_cases hallowed : Allowed c (q.read a) 4
  · rw [if_pos hallowed, if_pos hallowed, Option.map_map]
    rfl
  · rw [if_neg hallowed, if_neg hallowed]
    rfl

theorem follow_loadReserved (hop : r.op = .ins i) (h : kindOf i = .loadReserved) :
    follow c q r = some { q.write (destOf r) 0 with pc := q.pc + 4 } := by
  obtain ⟨a, rd, hform⟩ := form_loadReserved h
  rw [follow_ins hop (by simp [h]), inOrderEffect, inOrderValue_none (by simp [h]), loadShape_none (by simp [h]),
    storeShape_none (by simp [h]), hform]
  simp [destOf, formOf_ins hop hform, followingPc_next (i := i) (by simp [h])]

theorem follow_syscall (h : opKind r.op = .syscall) : follow c q r = none := by
  cases hop : r.op with
  | nop => rw [hop] at h; cases h
  | ins i =>
    rw [hop] at h
    have hk : kindOf i = .syscall := h
    rw [follow_ins hop (by simp [hk]), inOrderEffect, inOrderValue_none (by simp [hk]), loadShape_none (by simp [hk]),
      storeShape_none (by simp [hk])]
    cases i <;> cases hk
    rfl

end

end Sys2Proof.Machine
end

section
/-! PROOFS. The step of sequential execution that a record stands for, and what such a step leaves of the registers and of
memory (70_reset_and_hazards.md R448). -/

namespace Sys2Proof.Machine

section

variable {c : Config} {q u : InOrder} {r : Decoded} {i : Instr} {v : Word}

/-! ### The step -/

theorem effect_suppressed (h : kindOf i = .suppressed) : inOrderEffect c i q = some q := by
  rw [inOrderEffect, inOrderValue_none (by simp [h]), loadShape_none (by simp [h]), storeShape_none (by simp [h])]
  cases i <;> cases h <;> rfl

theorem effect_refused (h : kindOf i = .refused) : inOrderEffect c i q = none := by
  rw [inOrderEffect, inOrderValue_none (by simp [h]), loadShape_none (by simp [h]), storeShape_none (by simp [h])]
  cases i <;> cases h <;> rfl

theorem recordOp_of_not_suppressed (h : kindOf i ≠ .suppressed) : recordOp i = .ins i := if_neg h

/-- Sequential execution of what is neither ECALL nor a branch. -/
theorem inOrderStep_effect (hallowed : Allowed c q.pc 4) (hdecode : decodeWord (memRead q.mem q.pc 4) = .ok i)
    (hi : kindOf i ≠ .syscall) (hb : kindOf i ≠ .branch) (hu : inOrderEffect c i q = some u) :
    inOrderStep c q = .next (recordOp i) { u with pc := followingPc i q } := by
  rw [inOrderStep, if_pos hallowed, hdecode, recordOp]
  cases i <;> first
    | exact absurd rfl hi
    | (dsimp only
       rw [branchShape_none hb, hu])

/-- A branch, predicted right or wrong. -/
theorem inOrderStep_branch {taken : Bool} {imm : Word} (hallowed : Allowed c q.pc 4)
    (hdecode : decodeWord (memRead q.mem q.pc 4) = .ok i) (hshape : branchShape i q.read = some (taken, imm)) :
    inOrderStep c q = .next (.ins i) { q with pc := if taken then q.pc + imm else q.pc + 4 } := by
  rw [inOrderStep, if_pos hallowed, hdecode]
  cases i <;> cases hshape <;> rfl

/-- A record that is followed is a step of sequential execution. -/
theorem inOrderStep_follow (g : Genuine c q.mem r) (hpc : q.pc = r.pc) (h : follow c q r = some u) :
    inOrderStep c q = .next r.op u := by
  obtain ⟨hallowed, ⟨i, hdecode, hop⟩, _⟩ := g
  rw [← hpc] at hallowed hdecode
  by_cases hs : kindOf i = .suppressed
  · have hnop : r.op = .nop := hop.trans (if_pos hs)
    rw [follow_nop hnop] at h
    cases h
    rw [inOrderStep_effect hallowed hdecode (by simp [hs]) (by simp [hs]) (effect_suppressed hs), hop,
      followingPc_next (by simp [hs])]
  · have hins : r.op = .ins i := hop.trans (if_neg hs)
    have hcall : kindOf i ≠ .syscall := by
      intro hk
      have hsys : opKind r.op = .syscall := by rw [hins]; exact hk
      cases (follow_syscall hsys).symm.trans h
    by_cases hb : kindOf i = .branch
    · obtain ⟨_, imm, hshape⟩ := branchShape_of_kind hb
      obtain ⟨taken, hshape⟩ := branchShape_offset hshape q.read
      rw [follow_branch hins hshape] at h
      rw [inOrderStep_branch hallowed hdecode hshape, hins]
      split at h
      · cases h
        rfl
      · cases h
    · rw [follow_ins hins hb] at h
      obtain ⟨v, hv, rfl⟩ := Option.map_eq_some_iff.1 h
      rw [inOrderStep_effect hallowed hdecode hcall hb hv, hop]

/-- A record that is an ECALL stands for the word at its pc. -/
theorem Genuine.ecall (g : Genuine c q.mem r) (hpc : q.pc = r.pc) (hk : opKind r.op = .syscall) :
    Allowed c q.pc 4 ∧ decodeWord (memRead q.mem q.pc 4) = .ok .ecall ∧ r.op = .ins .ecall := by
  obtain ⟨hallowed, ⟨i, hdecode, hop⟩, _⟩ := g
  rw [← hpc] at hallowed hdecode
  rw [hop] at hk ⊢
  have hs : kindOf i ≠ .suppressed := by
    intro hs
    rw [recordOp, if_pos hs] at hk
    cases hk
  rw [recordOp_of_not_suppressed hs] at hk ⊢
  have hi : i = .ecall := by
    replace hk : kindOf i = .syscall := hk
    cases i <;> cases hk
    rfl
  exact ⟨hallowed, hi ▸ hdecode, congrArg Op.ins hi⟩

/-- An ECALL that the dispatcher answers with a value (60_exceptions.md R410). -/
theorem inOrderStep_resumes {writes : List (Word × Byte)} (g : Genuine c q.mem r) (hpc : q.pc = r.pc)
    (hk : opKind r.op = .syscall) (hd : dispatch (q.forDispatch c) = .resume v writes) : inOrderStep c q =
      .next r.op { q.write 10 v with pc := q.pc + 4, mem := writeBytes q.mem writes } := by
  obtain ⟨hallowed, hdecode, hop⟩ := g.ecall hpc hk
  rw [inOrderStep, if_pos hallowed, hdecode, hop]
  simp only [hd]

/-- An ECALL that ends the run. -/
theorem inOrderStep_exits {code : Word} (g : Genuine c q.mem r) (hpc : q.pc = r.pc) (hk : opKind r.op = .syscall)
    (hd : dispatch (q.forDispatch c) = .exit code) : inOrderStep c q = .exit code := by
  obtain ⟨hallowed, hdecode, _⟩ := g.ecall hpc hk
  rw [inOrderStep, if_pos hallowed, hdecode]
  simp only [hd]

/-! ### What a step leaves -/

theorem InOrder.read_write (q : InOrder) (x y : Reg) (v : Word) :
    (q.write x v).read y = if y = x ∧ y ≠ 0 then v else q.read y := by
  by_cases hx : x = 0
  · subst hx
    have hn : ¬ (y = 0 ∧ y ≠ 0) := fun h => h.2 h.1
    rw [if_neg hn, InOrder.write, if_pos rfl]
  · rw [InOrder.write, if_neg hx, InOrder.read]
    by_cases hy : y = 0
    · simp [hy, InOrder.read]
    · rw [if_neg hy]
      by_cases hxy : y = x
      · subst hxy
        rw [if_pos ⟨rfl, hy⟩]
        exact Vector.getElem_set_self _
      · have hne : x.toNat ≠ y.toNat := fun h => hxy (BitVec.eq_of_toNat_eq h).symm
        rw [if_neg fun h => hxy h.1, InOrder.read, if_neg hy]
        exact Vector.getElem_set_ne x.isLt y.isLt hne

@[simp] theorem InOrder.write_zero (q : InOrder) (v : Word) : q.write 0 v = q := if_pos rfl

/-- What a step makes of the registers and of memory: its destination at most, and the bytes of a store. -/
inductive StepEffect (q u : InOrder) (r : Decoded) : Prop
  | plain (v : Word) (hw : storeWidth r.op = none) (hu : u = { q.write (destOf r) v with pc := u.pc })
  | store (w : Width) (v x : Word) (hw : storeWidth r.op = some w)
      (hu : u = { q.write (destOf r) v with
        mem := memWrite q.mem (addressOf r q) (widthBytes w) x, pc := u.pc })

theorem follow_effect (hform : issueTableOp r.op = some (formOf r)) (h : follow c q r = some u) : StepEffect q u r := by
  have unwritten (hw : storeWidth r.op = none) (hd : destOf r = 0) (hu : u = { q with pc := u.pc }) : StepEffect q u r := by
    refine .plain 0 hw ?_
    rw [hd, InOrder.write_zero]
    exact hu
  cases hop : r.op with
  | nop =>
    rw [follow_nop hop] at h
    cases h
    have hf := formOf_eq (r := r) (form := aluForm (.const 0) (.const 0) 0) (by rw [hop]; rfl)
    exact unwritten (by rw [hop]; rfl) (by rw [destOf, hf]; rfl) rfl
  | ins i =>
    have width {w : Option Width} (hw : storeWidth (.ins i) = w) : storeWidth r.op = w := by rw [hop]; exact hw
    rw [hop] at hform
    have plain {v pc : Word} (hk : storeWidth (.ins i) = none) (hu : u = { q.write (destOf r) v with pc := pc }) :
        StepEffect q u r := .plain v (width hk) (by rw [hu])
    cases hk : kindOf i with
    | alu =>
      obtain ⟨rd, v, hv⟩ := effect_alu hk q.read q.pc
      obtain ⟨_, form, hform', hdest, _⟩ := inOrderValue_tables hv
      rw [follow_ins hop (by simp [hk]), inOrderEffect, hv] at h
      cases h
      refine plain (v := v) (pc := followingPc i q) (by simp [storeWidth, opKind, hk]) ?_
      rw [destOf, formOf_ins hop hform', hdest]
    | branch =>
      have hd : destOf r = 0 := issueTable_branch hform hk
      obtain ⟨_, imm, hshape⟩ := branchShape_of_kind hk
      obtain ⟨taken, hshape⟩ := branchShape_offset hshape q.read
      rw [follow_branch hop hshape] at h
      split at h
      · cases h
        exact unwritten (width (by simp [storeWidth, opKind, hk])) hd rfl
      · cases h
    | syscall =>
      have hsys : opKind r.op = .syscall := by rw [hop]; exact hk
      cases (follow_syscall hsys).symm.trans h
    | mul =>
      rw [follow_md hop (.inl hk)] at h
      obtain ⟨v, _, rfl⟩ := Option.map_eq_some_iff.1 h
      exact plain (by simp [storeWidth, opKind, hk]) rfl
    | div =>
      rw [follow_md hop (.inr hk)] at h
      obtain ⟨v, _, rfl⟩ := Option.map_eq_some_iff.1 h
      exact plain (by simp [storeWidth, opKind, hk]) rfl
    | load =>
      obtain ⟨wl, sign, rd, a, imm, hshape⟩ := loadShape_of_kind hk
      rw [follow_load hop hshape] at h
      split at h
      · cases h
        exact plain (by simp [storeWidth, opKind, hk]) rfl
      · cases h
    | loadReserved =>
      rw [follow_loadReserved hop hk] at h
      cases h
      exact plain (by simp [storeWidth, opKind, hk]) rfl
    | store w =>
      obtain ⟨a, b, imm, hshape⟩ : ∃ a b imm, storeShape i = some (w, a, b, imm) := by
        cases i <;> cases hk <;> exact ⟨_, _, _, rfl⟩
      have hd : destOf r = 0 := issueTable_store hform hk
      rw [follow_store hop hshape] at h
      split at h
      · cases h
        refine .store w 0 (dataOf r q) (width (storeWidth_of_kind hk)) ?_
        rw [hd, InOrder.write_zero]
      · cases h
    | amo =>
      rw [follow_amo hop hk] at h
      split at h
      · obtain ⟨new, _, rfl⟩ := Option.map_eq_some_iff.1 h
        exact .store .word _ new (width (by simp [storeWidth, opKind, hk])) rfl
      · cases h
    | suppressed =>
      rw [follow_ins hop (by simp [hk]), effect_suppressed hk] at h
      cases h
      have hnone : issueTable i = none := by cases i <;> cases hk <;> rfl
      exact absurd (hnone.symm.trans hform) (by simp)
    | refused =>
      rw [follow_ins hop (by simp [hk]), effect_refused hk] at h
      cases h

theorem StepEffect.read_other (e : StepEffect q u r) {x : Reg} (hx : x ≠ destOf r) : u.read x = q.read x := by
  have same {y : InOrder} (v : Word) (hregs : y.regs = (q.write (destOf r) v).regs) : y.read x = q.read x := by
    have := q.read_write (destOf r) x v
    rw [if_neg fun h => hx h.1] at this
    simpa [InOrder.read, hregs] using this
  cases e with
  | plain v hw hu => exact same v (by rw [hu])
  | store w v x hw hu => exact same v (by rw [hu])

/-- The registers behind a step: the destination's value is written. -/
theorem StepEffect.regs (e : StepEffect q u r) : u.regs = (q.write (destOf r) (u.read (destOf r))).regs := by
  have same {y : InOrder} (v : Word) (hregs : y.regs = (q.write (destOf r) v).regs) :
      y.regs = (q.write (destOf r) (y.read (destOf r))).regs := by
    by_cases hd : destOf r = 0
    · rw [hregs, hd, InOrder.write_zero, InOrder.write_zero]
    · have value : y.read (destOf r) = v := by
        have := q.read_write (destOf r) (destOf r) v
        rw [if_pos ⟨rfl, hd⟩] at this
        simpa [InOrder.read, hregs] using this
      rw [value, hregs]
  cases e with
  | plain v hw hu => exact same v (by rw [hu])
  | store w v x hw hu => exact same v (by rw [hu])

theorem StepEffect.mem_of_plain (e : StepEffect q u r) (hw : storeWidth r.op = none) : u.mem = q.mem := by
  cases e with
  | plain v _ hu => rw [hu, InOrder.write_mem]
  | store w v x hw' => rw [hw] at hw'; cases hw'

theorem StepEffect.mem_of_store (e : StepEffect q u r) {w : Width} (hw : storeWidth r.op = some w) :
    ∃ x, u.mem = memWrite q.mem (addressOf r q) (widthBytes w) x := by
  cases e with
  | plain v hn => rw [hw] at hn; cases hn
  | store w' v x hw' hu =>
    cases hw.symm.trans hw'
    exact ⟨x, by rw [hu]⟩

theorem StepEffect.mem_wf (e : StepEffect q u r) (h : Memory.wf q.mem) : Memory.wf u.mem := by
  cases e with
  | plain v _ hu => rw [hu, InOrder.write_mem]; exact h
  | store w v x _ hu => rw [hu]; exact memWrite_wf _ _ _ _ h

end

end Sys2Proof.Machine
end

section
/-! PROOFS. What the core's result of a record must be for sequential execution, unit by unit (41_alu.md R228; 42_muldiv.md
R242 to R250; 43_load_store_amo.md R279 to R281). -/

namespace Sys2Proof.Machine

/-- `v` is the right result of the record `r` in the sequential state `q`: an ECALL's next pc, a branch's outcome, or what
sequential execution writes, of a record that it does not stop at. -/
structure RightResult (c : Config) (q : InOrder) (r : Decoded) (v : Word) : Prop where
  syscall : opKind r.op = .syscall → v = r.pc + 4
  branch : ∀ i taken imm, r.op = .ins i → branchShape i q.read = some (taken, imm) → v = bit taken
  value : OtherKind r.op ∨ opKind r.op = .amo → ∃ u, follow c q r = some u ∧ (destOf r ≠ 0 → u.read (destOf r) = v)

section

variable {c : Config} {q u : InOrder} {r : Decoded} {i : Instr} {v w x : Word}

/-- The result of an instruction that is neither ECALL nor a branch. -/
theorem RightResult.of_step (hop : r.op = .ins i) (hb : kindOf i ≠ .branch) (hs : kindOf i ≠ .syscall)
    (h : follow c q r = some u) (hu : u.regs = (q.write (destOf r) v).regs) : RightResult c q r v where
  syscall hk := by
    rw [hop] at hk
    exact absurd hk hs
  branch j taken imm hj hshape := by
    cases hop.symm.trans hj
    exact absurd (by cases i <;> cases hshape <;> rfl) hb
  value _ := by
    refine ⟨u, h, fun hd => ?_⟩
    have := q.read_write (destOf r) (destOf r) v
    rw [if_pos ⟨rfl, hd⟩] at this
    simpa [InOrder.read, hu] using this

theorem right_nop (h : r.op = .nop) (v : Word) : RightResult c q r v where
  syscall hk := by
    rw [h] at hk
    cases hk
  branch i _ _ hi := by
    rw [h] at hi
    cases hi
  value _ := by
    refine ⟨_, follow_nop h, fun hd => absurd ?_ hd⟩
    rw [destOf, formOf_eq (form := aluForm (.const 0) (.const 0) 0) (by rw [h]; rfl)]
    rfl

/-- The ALU's result is right (41_alu.md R228). -/
theorem right_alu (hpc : q.pc = r.pc)
    (hv : aluTableOp r.op (operandJ r q) (operandK r q) r.pc = some v) : RightResult c q r v := by
  cases hop : r.op with
  | nop => exact right_nop hop v
  | ins i =>
    rw [hop] at hv
    rcases aluTable_kind hv with hk | hk | hk
    · obtain ⟨v', hv', hfollow⟩ := follow_alu (c := c) hop hk hpc
      cases hv.symm.trans hv'
      exact .of_step hop (by simp [hk]) (by simp [hk]) hfollow rfl
    · refine ⟨fun hs => ?_, fun j taken imm hj hshape => ?_, fun ho => ?_⟩
      · rw [hop] at hs
        exact absurd (hk.symm.trans hs) (by simp)
      · cases hop.symm.trans hj
        obtain ⟨_, form, hform', _, htable⟩ := branchShape_tables r.pc hshape
        have hf : formOf r = form := formOf_ins hop hform'
        rw [operandJ, operandK, hf] at hv
        exact Option.some.inj (hv.symm.trans htable)
      · rw [hop] at ho
        rcases ho with (ho | ho | ho | ho | ho | ho) | ho <;> exact absurd (hk.symm.trans ho) (by simp)
    · refine ⟨fun _ => ?_, fun j taken imm hj hshape => ?_, fun ho => ?_⟩
      · cases i <;> cases hk
        exact (Option.some.inj hv).symm
      · cases hop.symm.trans hj
        exact absurd (by cases i <;> cases hshape <;> rfl : kindOf i = .branch) (by simp [hk])
      · rw [hop] at ho
        rcases ho with (ho | ho | ho | ho | ho | ho) | ho <;> exact absurd (hk.symm.trans ho) (by simp)

/-- The MULDIV unit's result is right. -/
theorem right_md (hop : r.op = .ins i) (hk : kindOf i = .mul ∨ kindOf i = .div)
    (hv : mdValue c i (operandJ r q) (operandK r q) = some v) : RightResult c q r v := by
  have hfollow : follow c q r = some { q.write (destOf r) v with pc := q.pc + 4 } := by
    rw [follow_md hop hk, hv]
    rfl
  exact .of_step hop (by rcases hk with hk | hk <;> simp [hk]) (by rcases hk with hk | hk <;> simp [hk]) hfollow rfl

/-- LR.W gives 0. -/
theorem right_loadReserved (hop : r.op = .ins i) (hk : kindOf i = .loadReserved) : RightResult c q r 0 :=
  .of_step hop (by simp [hk]) (by simp [hk]) (follow_loadReserved hop hk) rfl

/-- A load of the word `x` at its address. -/
theorem right_load {wl : Width} {sign : Bool} {rd a : Reg} {imm : Word} (hop : r.op = .ins i)
    (hshape : loadShape i = some (wl, sign, rd, a, imm)) (hallowed : Allowed c (addressOf r q) (widthBytes wl))
    (hx : loadedValue wl sign x = loadedValue wl sign (memRead q.mem (addressOf r q) (widthBytes wl))) :
    RightResult c q r (extend wl sign x) := by
  have hk := (loadShape_form hshape).2.1
  have hfollow := follow_load (c := c) (q := q) hop hshape
  rw [if_pos hallowed, ← hx, ← extend_eq_loadedValue] at hfollow
  exact .of_step hop (by simp [hk]) (by simp [hk]) hfollow rfl

/-- SC.W and the AMOs: the value is stored, and the destination has the result. -/
theorem follow_amo_value (hop : r.op = .ins i) (hk : kindOf i = .amo) (hallowed : Allowed c (addressOf r q) 4)
    (hx : x = memRead q.mem (addressOf r q) 4) :
    follow c q r = some { q.write (destOf r) (amoResult c i x) with
      mem := memWrite q.mem (addressOf r q) 4 ((amoTable i x (operandK r q)).getD 0), pc := q.pc + 4 } := by
  rw [follow_amo hop hk, if_pos hallowed, ← hx]
  obtain ⟨new, hnew⟩ : ∃ new, amoTable i x (operandK r q) = some new := by
    cases i <;> cases hk <;> exact ⟨_, rfl⟩
  rw [hnew]
  rfl

theorem right_amo (hop : r.op = .ins i) (hk : kindOf i = .amo) (hallowed : Allowed c (addressOf r q) 4)
    (hx : x = memRead q.mem (addressOf r q) 4) : RightResult c q r (amoResult c i x) :=
  .of_step hop (by simp [hk]) (by simp [hk]) (follow_amo_value hop hk hallowed hx) rfl

/-! ### The corner cases of a division -/

theorem divide_eq_mdValue {op : DivOp} (hop : divOpOf i = some op) (j k : Word) :
    mdValue c i j k = divide c.divCorner op j k := by
  rw [mdValue, hop]
  dsimp only
  by_cases hcorner : IsDivCorner op j k
  · rw [if_pos hcorner]
    cases hc : c.divCorner with
    | fault => rw [divide_fault hcorner]; cases op <;> rfl
    | host => rw [divide_host hcorner]; cases op <;> rfl
    | riscv => rw [divide_riscv hcorner]; cases op <;> simp [cornerValue, riscvCorner]
  · rw [if_neg hcorner, divide_ordinary _ hcorner]

end

end Sys2Proof.Machine
end

section
/-! PROOFS. The instructions in flight as a stretch of sequential execution: the state before each of them and the value each
of them writes (70_reset_and_hazards.md R448). -/

namespace Sys2Proof.Machine

/-! ### A stretch of records -/

/-- The records one after the other. -/
def followAll (c : Config) : InOrder → List Decoded → Option InOrder
  | q, [] => some q
  | q, r :: rest => (follow c q r).bind fun u => followAll c u rest

/-- A stretch of sequential execution: its start, and the records with their tags. -/
structure Stretch where
  cfg : Config
  start : InOrder
  records : List (Tag × Decoded)

/-- The records in front of the tag `t`. -/
def recordsBefore (t : Tag) (fl : List (Tag × Decoded)) : List Decoded := (fl.takeWhile fun x => x.1 != t).map (·.2)

/-- The sequential state before the record of the tag `t`. -/
def Stretch.before (p : Stretch) (t : Tag) : Option InOrder := followAll p.cfg p.start (recordsBefore t p.records)

/-- What the record of the tag `t` leaves in its destination. -/
def Stretch.value (p : Stretch) (t : Tag) : Option Word :=
  (p.before t).bind fun q => (p.records.find? fun x => x.1 == t).bind fun x =>
    (follow p.cfg q x.2).map fun u => u.read (destOf x.2)

/-- The sequential state behind all records. -/
def Stretch.stop (p : Stretch) : Option InOrder := followAll p.cfg p.start (p.records.map (·.2))

section

variable {c : Config} {q u : InOrder} {r : Decoded} {t : Tag} {p : Stretch} {xs ys : List (Tag × Decoded)}

theorem followAll_append (c : Config) (xs ys : List Decoded) : ∀ q : InOrder,
    followAll c q (xs ++ ys) = (followAll c q xs).bind fun u => followAll c u ys := by
  induction xs with
  | nil => exact fun _ => rfl
  | cons r xs ih =>
    intro q
    simp only [List.cons_append, followAll]
    cases follow c q r with
    | none => rfl
    | some u => exact ih u

theorem followAll_singleton (c : Config) (q : InOrder) (r : Decoded) : followAll c q [r] = follow c q r := by
  simp only [followAll]
  cases follow c q r <;> rfl

theorem recordsBefore_split (hx : t ∉ xs.map (·.1)) : recordsBefore t (xs ++ (t, r) :: ys) = xs.map (·.2) := by
  have passed : ∀ x ∈ xs, (x.1 != t) = true := fun x hm => by
    simpa using fun h => hx (List.mem_map.2 ⟨x, hm, h⟩)
  rw [recordsBefore, List.takeWhile_append_of_pos passed]
  simp

theorem recordsBefore_absent (hx : t ∉ xs.map (·.1)) : recordsBefore t xs = xs.map (·.2) := by
  have passed : ∀ x ∈ xs, (x.1 != t) = true := fun x hm => by
    simpa using fun h => hx (List.mem_map.2 ⟨x, hm, h⟩)
  rw [recordsBefore, List.takeWhile_eq_self_iff.2 passed]

/-- The state before a record is what the records in front of it make of the start. -/
theorem Stretch.before_split (h : p.records = xs ++ (t, r) :: ys) (hx : t ∉ xs.map (·.1)) :
    p.before t = followAll p.cfg p.start (xs.map (·.2)) := by
  rw [Stretch.before, h, recordsBefore_split hx]

theorem Stretch.before_absent (hx : t ∉ p.records.map (·.1)) : p.before t = p.stop := by
  rw [Stretch.before, recordsBefore_absent hx, Stretch.stop]

theorem Stretch.value_split (h : p.records = xs ++ (t, r) :: ys) (hx : t ∉ xs.map (·.1)) :
    p.value t = (p.before t).bind fun q => (follow p.cfg q r).map fun u => u.read (destOf r) := by
  have found : p.records.find? (fun x => x.1 == t) = some (t, r) := by
    have passed : xs.find? (fun x => x.1 == t) = none :=
      List.find?_eq_none.2 fun x hm => by simpa using fun h => hx (List.mem_map.2 ⟨x, hm, h⟩)
    rw [h, List.find?_append, passed]
    simp
  rw [Stretch.value, found]
  rfl

/-- The first record is done: the states before the others are the same. -/
theorem Stretch.before_tail {rest : List (Tag × Decoded)} (h : p.records = (t, r) :: rest)
    (hu : follow p.cfg p.start r = some u) {t' : Tag} (ht : t' ≠ t) :
    (⟨p.cfg, u, rest⟩ : Stretch).before t' = p.before t' := by
  have first : (fun x : Tag × Decoded => x.1 != t') (t, r) = true := by simpa using ht.symm
  rw [Stretch.before, Stretch.before, h, recordsBefore, recordsBefore,
    List.takeWhile_cons_of_pos (p := fun x : Tag × Decoded => x.1 != t') first, List.map_cons,
    followAll, hu]
  rfl

theorem Stretch.value_tail {rest : List (Tag × Decoded)} (h : p.records = (t, r) :: rest)
    (hu : follow p.cfg p.start r = some u) {t' : Tag} (ht : t' ≠ t) :
    (⟨p.cfg, u, rest⟩ : Stretch).value t' = p.value t' := by
  have first : ¬ (fun x : Tag × Decoded => x.1 == t') (t, r) = true := by simpa using ht.symm
  rw [Stretch.value, Stretch.value, Stretch.before_tail h hu ht, h,
    List.find?_cons_of_neg (p := fun x : Tag × Decoded => x.1 == t') first]

theorem Stretch.stop_tail {rest : List (Tag × Decoded)} (h : p.records = (t, r) :: rest)
    (hu : follow p.cfg p.start r = some u) : (⟨p.cfg, u, rest⟩ : Stretch).stop = p.stop := by
  rw [Stretch.stop, Stretch.stop, h, List.map_cons, followAll, hu]
  rfl

/-- A record more leaves the others as they are. -/
theorem Stretch.before_appended (t' : Tag) (ht : t ∈ p.records.map (·.1) ∨ t = t') :
    (⟨p.cfg, p.start, p.records ++ [(t', r)]⟩ : Stretch).before t = p.before t := by
  rw [Stretch.before, Stretch.before]
  by_cases hm : t ∈ p.records.map (·.1)
  · obtain ⟨x, hx, rfl⟩ := List.mem_map.1 hm
    have stops : ¬ ∀ y ∈ p.records, (y.1 != x.1) = true := fun h => by simpa using h x hx
    congr 1
    rw [recordsBefore, recordsBefore, List.takeWhile_append, if_neg]
    intro h
    exact stops (List.takeWhile_eq_self_iff.1 (List.Sublist.eq_of_length (List.takeWhile_sublist _) h))
  · obtain rfl := ht.resolve_left hm
    rw [recordsBefore_split hm, recordsBefore_absent hm]

theorem Stretch.value_appended (t' : Tag) (ht : t ∈ p.records.map (·.1)) :
    (⟨p.cfg, p.start, p.records ++ [(t', r)]⟩ : Stretch).value t = p.value t := by
  obtain ⟨x, hx, hxt⟩ := List.mem_map.1 ht
  have found : (p.records.find? fun x => x.1 == t).isSome := List.find?_isSome.2 ⟨x, hx, by simpa using hxt⟩
  rw [Stretch.value, Stretch.value, Stretch.before_appended t' (.inl ht), List.find?_append]
  obtain ⟨y, hy⟩ := Option.isSome_iff_exists.1 found
  rw [hy]
  rfl

theorem Stretch.stop_appended (t' : Tag) :
    (⟨p.cfg, p.start, p.records ++ [(t', r)]⟩ : Stretch).stop = p.stop.bind fun q => follow p.cfg q r := by
  rw [Stretch.stop, Stretch.stop, List.map_append, followAll_append]
  congr 1
  funext q
  exact followAll_singleton _ _ _

end

/-! ### The records in flight -/

/-- Records with their tags to be, from `n` on (40_cycle_issue_rename.md R142). -/
def numbered : Tag → List Decoded → List (Tag × Decoded)
  | _, [] => []
  | n, r :: rest => (n, r) :: numbered (n + 1) rest

/-- The instructions in flight in program order: the reorder buffer, then iq. -/
def flight (s : State) : List (Tag × Decoded) := s.rob.map (fun h => (h.tag, h.ins)) ++ numbered s.nextTag s.iq

section

variable {s u : State} {h : RobEntry} {older younger : List RobEntry} {r : Decoded}

theorem numbered_append (n : Tag) (xs ys : List Decoded) :
    numbered n (xs ++ ys) = numbered n xs ++ numbered (n + xs.length) ys := by
  induction xs generalizing n with
  | nil => rfl
  | cons r xs ih =>
    rw [List.cons_append, numbered, numbered, ih, List.cons_append, List.length_cons, Nat.add_right_comm, Nat.add_assoc]

theorem le_of_mem_numbered {n : Tag} {xs : List Decoded} {x : Tag × Decoded} (hx : x ∈ numbered n xs) :
    n ≤ x.1 ∧ x.1 < n + xs.length := by
  induction xs generalizing n with
  | nil => cases hx
  | cons r xs ih =>
    rcases List.mem_cons.1 hx with rfl | hx
    · exact ⟨Nat.le_refl n, by simp⟩
    · obtain ⟨h1, h2⟩ := ih hx
      exact ⟨Nat.le_of_succ_le h1, Nat.lt_of_lt_of_eq h2 (Nat.succ_add_eq_add_succ _ _)⟩

theorem numbered_records (n : Tag) (xs : List Decoded) : (numbered n xs).map (·.2) = xs := by
  induction xs generalizing n with
  | nil => rfl
  | cons r xs ih => rw [numbered, List.map_cons, ih]

theorem flight_split (hrob : s.rob = older ++ h :: younger) : flight s = older.map (fun h => (h.tag, h.ins)) ++
    (h.tag, h.ins) :: (younger.map (fun h => (h.tag, h.ins)) ++ numbered s.nextTag s.iq) := by
  rw [flight, hrob, List.map_append, List.map_cons, List.append_assoc, List.cons_append]

theorem older_tags (ho : TagsInOrder s) (hrob : s.rob = older ++ h :: younger) :
    h.tag ∉ (older.map fun h => (h.tag, h.ins)).map (·.1) := by
  have order := ((tagsInOrder_iff s).1 ho).1
  rw [robTags, hrob, List.map_append, List.map_cons] at order
  intro hm
  rw [List.map_map] at hm
  exact Nat.lt_irrefl _ ((List.pairwise_append.1 order).2.2 _ hm _ List.mem_cons_self)

/-- The state before an entry of the reorder buffer. -/
theorem before_rob {p : Stretch} (ho : TagsInOrder s) (hp : p.records = flight s) (hrob : s.rob = older ++ h :: younger) :
    p.before h.tag = followAll p.cfg p.start (older.map (·.ins)) := by
  rw [Stretch.before_split (hp.trans (flight_split hrob)) (older_tags ho hrob), List.map_map]
  rfl

/-- What an entry of the reorder buffer writes. -/
theorem value_rob {p : Stretch} (ho : TagsInOrder s) (hp : p.records = flight s) (hm : h ∈ s.rob) :
    p.value h.tag = (p.before h.tag).bind fun q => (follow p.cfg q h.ins).map fun u => u.read (destOf h.ins) := by
  obtain ⟨older, younger, hrob⟩ := List.append_of_mem hm
  exact Stretch.value_split (hp.trans (flight_split hrob)) (older_tags ho hrob)

/-- The next tag is in front of iq. -/
theorem nextTag_not_rob (ho : TagsInOrder s) : s.nextTag ∉ (s.rob.map fun h => (h.tag, h.ins)).map (·.1) := by
  intro hm
  rw [List.map_map] at hm
  exact Nat.lt_irrefl _ (((tagsInOrder_iff s).1 ho).2.1 _ hm).2

theorem before_next {p : Stretch} (ho : TagsInOrder s) (hp : p.records = flight s) :
    p.before s.nextTag = followAll p.cfg p.start (s.rob.map (·.ins)) := by
  cases hiq : s.iq with
  | nil =>
    have absent : s.nextTag ∉ p.records.map (·.1) := by
      rw [hp, flight, hiq, numbered, List.append_nil]
      exact nextTag_not_rob ho
    rw [Stretch.before_absent absent, Stretch.stop, hp, flight, hiq, numbered, List.append_nil, List.map_map]
    rfl
  | cons r rest =>
    have hfl : p.records = (s.rob.map fun h => (h.tag, h.ins)) ++ (s.nextTag, r) :: numbered (s.nextTag + 1) rest := by
      rw [hp, flight, hiq, numbered]
    rw [Stretch.before_split hfl (nextTag_not_rob ho), List.map_map]
    rfl

/-- Where the tags and the records of the reorder buffer, iq and the next tag are the same, so are the records in flight. -/
theorem flight_congr (hrob : u.rob.map (fun h => (h.tag, h.ins)) = s.rob.map fun h => (h.tag, h.ins)) (hiq : u.iq = s.iq)
    (hnext : u.nextTag = s.nextTag) : flight u = flight s := by
  rw [flight, flight, hrob, hiq, hnext]

end

end Sys2Proof.Machine
end

section
/-! PROOFS. What the entries in flight hold, for sequential execution; the broadcast stage keeps it (45_cdb.md R352 to
R357). -/

namespace Sys2Proof.Machine

/-! ### The entries -/

/-- A slot with the value `v` and the tag `t` stands for `x`: it is resolved to `x`, or the record it waits for writes `x`. -/
structure SlotHolds (p : Stretch) (v : Word) (t : Tag) (x : Word) : Prop where
  resolved : t = 0 → v = x
  awaited : t ≠ 0 → p.value t = some x

/-- The operands of a reservation-station entry are those of sequential execution. -/
structure OperandsHold (p : Stretch) (q : InOrder) (e : RsEntry) : Prop where
  j : SlotHolds p e.vj e.qj (operandJ e.ins q)
  k : SlotHolds p e.vk e.qk (operandK e.ins q)
  a : e.a = (formOf e.ins).a
  const : ∀ v, (formOf e.ins).k = .const v → e.qk = 0

/-- What a reorder-buffer entry has of its instruction, wherever it stands. -/
structure EntryShape (h : RobEntry) : Prop where
  dest : h.dest = destOf h.ins
  form : issueTableOp h.ins.op = some (formOf h.ins)
  queued : h.storeQ ≠ 0 → ∃ w, opKind h.ins.op = .store w

/-- What a reorder-buffer entry has ready is sequential execution's; `q` is the state before its instruction. -/
structure EntryHolds (p : Stretch) (q : InOrder) (h : RobEntry) : Prop where
  pc : q.pc = h.ins.pc
  complete : h.complete = true → RightResult p.cfg q h.ins h.result
  syscall : opKind h.ins.op = .syscall → h.valueReady = true → RightResult p.cfg q h.ins h.result
  addr : h.addrReady = true → h.addr = addressOf h.ins q
  data : ∀ w, opKind h.ins.op = .store w → h.valueReady = true → h.wb = dataOf h.ins q
  queue : h.storeQ ≠ 0 → p.value h.storeQ = some (dataOf h.ins q)
  amo : opKind h.ins.op = .amo → h.valueReady = true → ∃ u, follow p.cfg q h.ins = some u ∧
    u.mem = memWrite q.mem (addressOf h.ins q) 4 h.wb ∧ (destOf h.ins ≠ 0 → u.read (destOf h.ins) = h.result)

/-- What a load-buffer entry holds: the address and the source; a forwarded value that is the word of sequential
execution; and where it is to read memory, no instruction in front of it changes the word. -/
structure LbHolds (p : Stretch) (q : InOrder) (l : LbEntry) : Prop where
  addr : l.addr = addressOf l.ins q
  src : opKind l.ins.op = .amo → l.src = operandK l.ins q
  forwarded : l.cleared = true → ∀ v, l.fwd = some v → Allowed p.cfg l.addr (accessBytes l.ins.op) ∧
    v = memRead q.mem l.addr (accessBytes l.ins.op)
  unchanged : l.cleared = true → l.fwd = none → ∀ x ∈ p.records, x.1 ≤ l.owner → ∀ q', p.before x.1 = some q' →
    memRead q'.mem l.addr (accessBytes l.ins.op) = memRead p.start.mem l.addr (accessBytes l.ins.op)
  done : p.cfg.cacheLat ≤ l.progress → RightResult p.cfg q l.ins l.result

/-- What is in flight in the core stands for the stretch `p` of sequential execution. -/
structure Claims (p : Stretch) (s : State) : Prop where
  cfg : p.cfg = s.cfg
  mem : p.start.mem = s.mem
  records : p.records = flight s
  wf : Memory.wf s.mem
  shape : ∀ h ∈ s.rob, EntryShape h
  entry : ∀ h ∈ s.rob, ∀ q, p.before h.tag = some q → EntryHolds p q h
  operands : ∀ e, InPool s e → ∀ q, p.before e.dest = some q → OperandsHold p q e
  alu : ∀ e ∈ s.rsAlu, e.progress ≠ 0 → ∀ q, p.before e.dest = some q → RightResult p.cfg q e.ins e.result
  md : ∀ e ∈ s.rsMd, latency s.cfg e.ins.op ≤ e.progress → ∀ q, p.before e.dest = some q →
    RightResult p.cfg q e.ins e.result
  agu : ∀ e ∈ s.rsAgu, opKind e.ins.op = .loadReserved → e.progress ≠ 0 → ∀ q, p.before e.dest = some q →
    RightResult p.cfg q e.ins e.result
  lb : ∀ l ∈ s.lb, ∀ q, p.before l.owner = some q → LbHolds p q l

/-! ### The harvest and its messages -/

section

variable {p : Stretch} {q : InOrder} {s : State} {h : RobEntry} {x : Harvested} {m : CdbMsg} {w : Word} {t : Tag}

/-- The value harvested for a tag is right. -/
theorem Claims.harvested (hs : Claims p s) (inFlight : InFlight s) (hx : x ∈ harvestSet s) (eh : robAt s x.tag = some h)
    (hq : p.before x.tag = some q) : RightResult p.cfg q h.ins x.value := by
  have pool {e : RsEntry} (he : InPool s e) (hd : e.dest = x.tag) : e.ins = h.ins := by
    obtain ⟨g, eg, hins, _⟩ := inFlight.pool_owner he
    rw [hd, eh] at eg
    cases eg
    exact hins.symm
  rcases mem_harvestSet.1 hx with ⟨e, he, hdone, rfl⟩ | ⟨e, he, hdone, rfl⟩ | ⟨e, he, hdone, rfl⟩ | ⟨l, hl, hdone, rfl⟩
  · exact pool (.inl he) rfl ▸ hs.alu e he (Nat.one_le_iff_ne_zero.1 (of_decide_eq_true hdone)) q hq
  · exact pool (.inr (.inl he)) rfl ▸ hs.md e he (of_decide_eq_true hdone) q hq
  · obtain ⟨hk, hp⟩ := Bool.and_eq_true_iff.1 hdone
    exact pool (.inr (.inr he)) rfl ▸
      hs.agu e he (beq_iff_eq.1 hk) (Nat.one_le_iff_ne_zero.1 (of_decide_eq_true hp)) q hq
  · obtain ⟨g, eg, hins, _⟩ := inFlight.lb_owner hl
    cases eg.symm.trans eh
    exact hins ▸ (hs.lb l hl q hq).done (hs.cfg ▸ of_decide_eq_true hdone)

/-- A record that writes its destination has the right result there. -/
theorem RightResult.read {c : Config} {q u : InOrder} {r : Decoded} {v : Word} (hv : RightResult c q r v)
    (hk : OtherKind r.op ∨ opKind r.op = .amo) (hd : destOf r ≠ 0) (hu : follow c q r = some u) :
    u.read (destOf r) = v := by
  obtain ⟨u', hu', hread⟩ := hv.value hk
  cases hu.symm.trans hu'
  exact hread hd

/-- What is no ECALL and writes a register is of class other, or SC.W or an AMO. -/
theorem kind_of_dest (inFlight : InFlight s) (eh : robAt s t = some h) (hshape : EntryShape h)
    (hd : h.dest ≠ 0) (hn : opKind h.ins.op ≠ .syscall) : OtherKind h.ins.op ∨ opKind h.ins.op = .amo := by
  cases hk : opKind h.ins.op with
  | alu => exact .inl (.inl hk)
  | mul => exact .inl (.inr (.inl hk))
  | div => exact .inl (.inr (.inr (.inl hk)))
  | load => exact .inl (.inr (.inr (.inr (.inl hk))))
  | loadReserved => exact .inl (.inr (.inr (.inr (.inr (.inl hk)))))
  | suppressed => exact .inl (.inr (.inr (.inr (.inr (.inr hk)))))
  | amo => exact .inr rfl
  | branch => exact absurd (inFlight.branchDest t h eh hk) hd
  | store w => exact absurd (inFlight.storeDest t h eh w hk) hd
  | syscall => exact absurd hk hn
  | refused =>
    have hform := hshape.form
    cases hop : h.ins.op with
    | nop => rw [hop] at hk; cases hk
    | ins i =>
      rw [hop] at hk hform
      replace hk : kindOf i = .refused := hk
      cases i <;> cases hk <;> cases hform

/-- What the record of a tag writes, where it writes. -/
theorem Claims.value_spec (hs : Claims p s) (inFlight : InFlight s) (eh : robAt s t = some h) (hw : p.value t = some w) :
    ∃ q u, p.before t = some q ∧ follow p.cfg q h.ins = some u ∧ u.read (destOf h.ins) = w := by
  have htag := robAt_tag eh
  rw [← htag, value_rob inFlight.order hs.records (robAt_mem eh)] at hw
  obtain ⟨q, hq, hw⟩ := Option.bind_eq_some_iff.1 hw
  obtain ⟨u, hu, hw⟩ := Option.map_eq_some_iff.1 hw
  exact ⟨q, u, htag ▸ hq, hu, hw⟩

/-- A message is the value of its record. -/
theorem Claims.message (hs : Claims p s) (inFlight : InFlight s) (hm : m ∈ messages s) (hw : p.value m.tag = some w) :
    m.value = w := by
  rw [messages_eq] at hm
  obtain ⟨x, hx, ha⟩ := List.mem_filterMap.1 hm
  obtain ⟨h, eh, hh⟩ := Option.bind_eq_some_iff.1 ha
  have hmem := List.mem_of_head? hh
  rw [messageOf] at hmem
  split at hmem
  · rename_i hdest
    obtain ⟨hd, hcall⟩ := hdest
    cases List.mem_singleton.1 hmem
    have hshape := hs.shape h (robAt_mem eh)
    obtain ⟨q, u, hq, hu, rfl⟩ := hs.value_spec inFlight eh hw
    have hkind := kind_of_dest inFlight eh hshape hd (by simpa [isSyscall] using hcall)
    exact ((hs.harvested inFlight hx eh hq).read hkind (hshape.dest ▸ hd) hu).symm
  · cases hmem

/-- A slot that has heard the messages stands for the same value. -/
theorem Claims.heard (hs : Claims p s) (inFlight : InFlight s) {v : Word} (hslot : SlotHolds p v t w) :
    SlotHolds p (heard (messages s) v t).v (heard (messages s) v t).q w := by
  unfold Machine.heard
  split
  · rename_i m hfind
    have hm := List.mem_of_find?_eq_some hfind
    have htag : m.tag = t := by simpa using List.find?_some hfind
    refine ⟨fun _ => ?_, fun h => absurd rfl h⟩
    exact hs.message inFlight hm (htag ▸ hslot.awaited (htag ▸ messages_tag inFlight.order m hm))
  · exact hslot

/-- A slot with its value stays so. -/
theorem heard_resolved {ms : List CdbMsg} {v : Word} (ht : t = 0) : (Machine.heard ms v t).q = 0 := by
  unfold Machine.heard
  split
  · rfl
  · exact ht

/-! ### The stage -/

theorem markEntry_frame (v : Word) (h : RobEntry) : (markEntry v h).ins = h.ins ∧ (markEntry v h).dest = h.dest ∧
    (markEntry v h).addr = h.addr ∧ (markEntry v h).addrReady = h.addrReady ∧ (markEntry v h).wb = h.wb ∧
    (markEntry v h).storeQ = h.storeQ ∧ (markEntry v h).result = v := by
  unfold markEntry
  split <;> exact ⟨rfl, rfl, rfl, rfl, rfl, rfl, rfl⟩

theorem EntryHolds.marked {v : Word} (hh : EntryHolds p q h) (hv : RightResult p.cfg q h.ins v) :
    EntryHolds p q (markEntry v h) := by
  obtain ⟨hins, _, haddr, hready, hwb, hstore, hresult⟩ := markEntry_frame v h
  have other (hk : opKind h.ins.op ≠ .syscall) : (markEntry v h).valueReady = h.valueReady := by
    rw [markEntry, if_neg (by simpa [isSyscall] using hk)]
  refine ⟨hins ▸ hh.pc, fun _ => ?_, fun _ _ => ?_, fun ha => ?_, fun w hk hvr => ?_, fun h0 => ?_, fun hk hvr => ?_⟩
  · rw [hins, hresult]
    exact hv
  · rw [hins, hresult]
    exact hv
  · rw [haddr, hins]
    exact hh.addr (hready ▸ ha)
  · rw [hins] at hk ⊢
    rw [other (by simp [hk])] at hvr
    exact hwb ▸ hh.data w hk hvr
  · rw [hstore] at h0 ⊢
    rw [hins]
    exact hh.queue h0
  · rw [hins] at hk ⊢
    rw [other (by simp [hk])] at hvr
    obtain ⟨u, hu, hmem, _⟩ := hh.amo hk hvr
    rw [hresult, hwb]
    exact ⟨u, hu, hmem, fun hd => hv.read (.inr hk) hd hu⟩

theorem EntryHolds.heard (hs : Claims p s) (inFlight : InFlight s) (hh : EntryHolds p q h)
    (hqueued : h.storeQ ≠ 0 → ∃ w, opKind h.ins.op = .store w) : EntryHolds p q (robHeard (messages s) h) := by
  unfold robHeard
  split
  · rename_i m hfind
    have hm := List.mem_of_find?_eq_some hfind
    have htag : m.tag = h.storeQ := by simpa using List.find?_some hfind
    have h0 : h.storeQ ≠ 0 := htag ▸ messages_tag inFlight.order m hm
    obtain ⟨w, hk⟩ := hqueued h0
    refine ⟨hh.pc, hh.complete, fun hk' => ?_, hh.addr, fun _ _ _ => ?_, fun h => absurd rfl h, fun hk' => ?_⟩
    · exact absurd (hk.symm.trans hk') (by simp)
    · exact hs.message inFlight hm (htag ▸ hh.queue h0)
    · exact absurd (hk.symm.trans hk') (by simp)
  · exact hh

theorem robHarvested_frame (hs : List Harvested) (h : RobEntry) : (robHarvested hs h).ins = h.ins ∧
    (robHarvested hs h).dest = h.dest ∧ (robHarvested hs h).storeQ = h.storeQ := by
  rcases robHarvested_cases hs h with ⟨x, _, _, he⟩ | ⟨_, he⟩
  · obtain ⟨hins, hdest, _, _, _, hstore, _⟩ := markEntry_frame x.value h
    rw [he]
    exact ⟨hins, hdest, hstore⟩
  · rw [he]
    exact ⟨rfl, rfl, rfl⟩

theorem robBroadcast_frame (s : State) (h : RobEntry) : (robBroadcast s h).ins = h.ins ∧
    (robBroadcast s h).dest = h.dest ∧ (robBroadcast s h).tag = h.tag := by
  obtain ⟨hins, hdest, _⟩ := robHarvested_frame (harvestSet s) h
  refine ⟨(robHeard_stays _ _).ins.trans hins, ?_, (robHeard_tag _ _).trans (robHarvested_tag _ _)⟩
  rw [robBroadcast, robHeard]
  split <;> exact hdest

theorem mem_rob_broadcasted {g : RobEntry} (hg : g ∈ (broadcasted s).rob) : ∃ h ∈ s.rob, g = robBroadcast s h := by
  obtain ⟨x, hx, rfl⟩ := List.mem_map.1 hg
  obtain ⟨h, hh, rfl⟩ := List.mem_map.1 hx
  exact ⟨h, hh, rfl⟩

theorem flight_broadcasted (s : State) : flight (broadcasted s) = flight s := by
  refine flight_congr ?_ rfl rfl
  have both : (broadcasted s).rob = s.rob.map (robBroadcast s) := List.map_map
  rw [both, List.map_map]
  refine List.map_congr_left fun h _ => ?_
  obtain ⟨hins, _, htag⟩ := robBroadcast_frame s h
  exact Prod.ext htag hins

/-- The broadcast stage hands on what sequential execution has. -/
theorem Claims.broadcasted (hs : Claims p s) (inFlight : InFlight s) : Claims p (broadcasted s) where
  cfg := hs.cfg
  mem := hs.mem
  records := hs.records.trans (flight_broadcasted s).symm
  wf := hs.wf
  shape g hg := by
    obtain ⟨h, hm, rfl⟩ := mem_rob_broadcasted hg
    obtain ⟨hins, hdest, _⟩ := robBroadcast_frame s h
    obtain ⟨hd, hform, hqueued⟩ := hs.shape h hm
    refine ⟨by rw [hdest, hins, hd], by rw [hins]; exact hform, fun h0 => ?_⟩
    rw [hins]
    exact hqueued ((robBroadcast_storeQ s h).resolve_right h0 ▸ h0)
  entry g hg q hq := by
    obtain ⟨h, hm, rfl⟩ := mem_rob_broadcasted hg
    rw [(robBroadcast_frame s h).2.2] at hq
    obtain ⟨hins, _, hstore⟩ := robHarvested_frame (harvestSet s) h
    have marked : EntryHolds p q (robHarvested (harvestSet s) h) := by
      rcases robHarvested_cases (harvestSet s) h with ⟨x, hx, ht, he⟩ | ⟨_, he⟩
      · rw [he]
        have eh := robAt_of_mem inFlight.order hm
        exact (hs.entry h hm q hq).marked (hs.harvested inFlight hx (ht ▸ eh) (ht ▸ hq))
      · rw [he]
        exact hs.entry h hm q hq
    refine marked.heard hs inFlight fun h0 => ?_
    rw [hins]
    exact (hs.shape h hm).queued (hstore ▸ h0)
  operands e he q hq := by
    obtain ⟨x, hx, rfl⟩ := inPool_broadcasted he
    obtain ⟨hj, hk, ha, hconst⟩ := hs.operands x hx q hq
    exact ⟨hs.heard inFlight hj, hs.heard inFlight hk, ha, fun v hv => heard_resolved (hconst v hv)⟩
  alu e he hp := by
    obtain ⟨x, hx, rfl⟩ := List.mem_map.1 he
    exact absurd (of_decide_eq_true (List.mem_filter.1 hx).2) hp
  md e he hp := by
    obtain ⟨x, hx, rfl⟩ := List.mem_map.1 he
    exact absurd (of_decide_eq_true (List.mem_filter.1 hx).2) (Nat.not_lt.2 hp)
  agu e he hk hp := by
    obtain ⟨x, hx, rfl⟩ := List.mem_map.1 he
    exact absurd ⟨hk, Nat.one_le_iff_ne_zero.2 hp⟩ (of_decide_eq_true (List.mem_filter.1 hx).2)
  lb l hl := hs.lb l (List.mem_filter.1 hl).1

end

end Sys2Proof.Machine
end

section
/-! PROOFS. The ALU, the MULDIV unit and address generation do what sequential execution does (41_alu.md R170; 42_muldiv.md
R240; 43_load_store_amo.md R260 to R264). -/

namespace Sys2Proof.Machine

/-! ### Changes in place -/

section

variable {p : Stretch} {s u : State} {t : Tag} {h : RobEntry} {e : RsEntry} {l : LbEntry} {v : Word} {n : Nat}

/-- Entries that leave the pools and the load buffer take nothing from the others. -/
theorem Claims.shrink (hs : Claims p s) (hcfg : u.cfg = s.cfg) (hmem : u.mem = s.mem) (hrob : u.rob = s.rob)
    (hiq : u.iq = s.iq) (hnext : u.nextTag = s.nextTag) (halu : ∀ e ∈ u.rsAlu, e ∈ s.rsAlu)
    (hmd : ∀ e ∈ u.rsMd, e ∈ s.rsMd) (hagu : ∀ e ∈ u.rsAgu, e ∈ s.rsAgu) (hlb : ∀ l ∈ u.lb, l ∈ s.lb) : Claims p u where
  cfg := hs.cfg.trans hcfg.symm
  mem := hs.mem.trans hmem.symm
  records := hs.records.trans (flight_congr (congrArg _ hrob) hiq hnext).symm
  wf := hmem ▸ hs.wf
  shape := hrob ▸ hs.shape
  entry := hrob ▸ hs.entry
  operands e he := hs.operands e (he.imp (halu e) (Or.imp (hmd e) (hagu e)))
  alu e he := hs.alu e (halu e he)
  md e he := hcfg ▸ hs.md e (hmd e he)
  agu e he := hs.agu e (hagu e he)
  lb l hl := hs.lb l (hlb l hl)

theorem Claims.setStage (hs : Claims p s) (q : Stage) : Claims p { s with stage := q } :=
  hs.shrink rfl rfl rfl rfl rfl (fun _ => id) (fun _ => id) (fun _ => id) fun _ => id

/-- An entry of rs_alu is evaluated. -/
theorem Claims.evaluated {before after : List RsEntry} (hs : Claims p s) (hsplit : s.rsAlu = before ++ e :: after)
    (hv : ∀ q, p.before e.dest = some q → RightResult p.cfg q e.ins v) :
    Claims p { s with rsAlu := before ++ { e with result := v, progress := 1 } :: after } := by
  have old : e ∈ s.rsAlu := by simp [hsplit]
  have cases_mem {x : RsEntry} (hx : x ∈ before ++ { e with result := v, progress := 1 } :: after) :
      x ∈ s.rsAlu ∨ x = { e with result := v, progress := 1 } := by
    rw [hsplit]
    rcases List.mem_append.1 hx with hx | hx
    · exact .inl (List.mem_append_left _ hx)
    · rcases List.mem_cons.1 hx with hx | hx
      · exact .inr hx
      · exact .inl (List.mem_append_right _ (List.mem_cons_of_mem _ hx))
  refine ⟨hs.cfg, hs.mem, hs.records, hs.wf, hs.shape, hs.entry, fun x hx => ?_, fun x hx hp => ?_, hs.md, hs.agu, hs.lb⟩
  · rcases hx with hx | hx | hx
    · rcases cases_mem hx with hx | rfl
      · exact hs.operands x (.inl hx)
      · intro q hq
        obtain ⟨hj, hk, ha, hconst⟩ := hs.operands e (.inl old) q hq
        exact ⟨hj, hk, ha, hconst⟩
    · exact hs.operands x (.inr (.inl hx))
    · exact hs.operands x (.inr (.inr hx))
  · rcases cases_mem hx with hx | rfl
    · exact hs.alu x hx hp
    · exact hv

/-- An entry of rs_md goes on. -/
theorem Claims.advanced (hs : Claims p s) (he : e ∈ s.rsMd)
    (hv : latency s.cfg e.ins.op ≤ n → ∀ q, p.before e.dest = some q → RightResult p.cfg q e.ins v) :
    Claims p (setMd { e with progress := n, result := v } s) := by
  have cases_mem {x : RsEntry} (hx : x ∈ (setMd { e with progress := n, result := v } s).rsMd) :
      x ∈ s.rsMd ∨ x = { e with progress := n, result := v } := (mem_updateFirst hx).imp_right fun ⟨_, _, _, h⟩ => h
  refine ⟨hs.cfg, hs.mem, hs.records, hs.wf, hs.shape, hs.entry, fun x hx => ?_, hs.alu, fun x hx hp => ?_, hs.agu, hs.lb⟩
  · rcases hx with hx | hx | hx
    · exact hs.operands x (.inl hx)
    · rcases cases_mem hx with hx | rfl
      · exact hs.operands x (.inr (.inl hx))
      · intro q hq
        obtain ⟨hj, hk, ha, hconst⟩ := hs.operands e (.inr (.inl he)) q hq
        exact ⟨hj, hk, ha, hconst⟩
    · exact hs.operands x (.inr (.inr hx))
  · rcases cases_mem hx with hx | rfl
    · exact hs.md x hx hp
    · exact hv hp

/-- An entry of the reorder buffer changes in place. -/
theorem Claims.updated {f : RobEntry → RobEntry} (hs : Claims p s) (htag : ∀ h, (f h).tag = h.tag)
    (hins : ∀ h, (f h).ins = h.ins) (hshape : ∀ h, EntryShape h → EntryShape (f h))
    (hf : ∀ h ∈ s.rob, h.tag = t → ∀ q, p.before h.tag = some q → EntryHolds p q h → EntryHolds p q (f h)) :
    Claims p (updateRob t f s) := by
  have cases_mem {x : RobEntry} (hx : x ∈ (updateRob t f s).rob) : x ∈ s.rob ∨ ∃ h ∈ s.rob, h.tag = t ∧ x = f h :=
    (mem_updateFirst (p := fun h => h.tag == t) hx).imp_right fun ⟨h, hm, ht, he⟩ => ⟨h, hm, beq_iff_eq.1 ht, he⟩
  have records : (updateRob t f s).rob.map (fun h => (h.tag, h.ins)) = s.rob.map fun h => (h.tag, h.ins) := by
    rw [updateRob_rob]
    induction s.rob with
    | nil => rfl
    | cons h rest ih =>
      rw [updateFirst]
      split
      · rw [List.map_cons, List.map_cons, htag, hins]
      · rw [List.map_cons, List.map_cons, ih]
  refine ⟨hs.cfg, hs.mem, hs.records.trans (flight_congr (s := s) records rfl rfl).symm, hs.wf, fun x hx => ?_,
    fun x hx q hq => ?_, hs.operands, hs.alu, hs.md, hs.agu, hs.lb⟩
  · rcases cases_mem hx with hx | ⟨h, hm, _, rfl⟩
    · exact hs.shape x hx
    · exact hshape h (hs.shape h hm)
  · rcases cases_mem hx with hx | ⟨h, hm, ht, rfl⟩
    · exact hs.entry x hx q hq
    · rw [htag] at hq
      exact hf h hm ht q hq (hs.entry h hm q hq)

/-- A new entry of the load buffer. -/
theorem Claims.added (hs : Claims p s) (hl : ∀ q, p.before l.owner = some q → LbHolds p q l) : Claims p (addLb l s) := by
  refine ⟨hs.cfg, hs.mem, hs.records, hs.wf, hs.shape, hs.entry, hs.operands, hs.alu, hs.md, hs.agu, fun x hx => ?_⟩
  rcases (mem_insertLb l x s.lb).1 hx with rfl | hx
  · exact hl
  · exact hs.lb x hx

/-- An entry of the load buffer goes on. -/
theorem Claims.loaded (hs : Claims p s) (hl : ∀ q, p.before l.owner = some q → LbHolds p q l) : Claims p (setLb l s) := by
  refine ⟨hs.cfg, hs.mem, hs.records, hs.wf, hs.shape, hs.entry, hs.operands, hs.alu, hs.md, hs.agu, fun x hx => ?_⟩
  rcases mem_updateFirst hx with hx | ⟨_, _, _, rfl⟩
  · exact hs.lb x hx
  · exact hl

theorem Claims.dropped (hs : Claims p s) (t : Tag) : Claims p (dropAgu t s) :=
  hs.shrink rfl rfl rfl rfl rfl (fun _ => id) (fun _ => id) (fun _ => List.mem_of_mem_eraseP) fun _ => id

/-! ### What a unit knows of its entry -/

/-- An entry with both operands has those of sequential execution, and its pc. -/
theorem Claims.operands_ready (hs : Claims p s) (inFlight : InFlight s) (he : InPool s e) (hj : e.qj = 0) (hk : e.qk = 0)
    {q : InOrder} (hq : p.before e.dest = some q) : e.vj = operandJ e.ins q ∧ e.vk = operandK e.ins q ∧
      q.pc = e.ins.pc ∧ effectiveAddress e = addressOf e.ins q := by
  obtain ⟨hholds, hkolds, ha, _⟩ := hs.operands e he q hq
  obtain ⟨h, eh, hins, _⟩ := inFlight.pool_owner he
  have holds := hs.entry h (robAt_mem eh) q (by rw [robAt_tag eh]; exact hq)
  have hvj := hholds.resolved hj
  refine ⟨hvj, hkolds.resolved hk, hins ▸ holds.pc, ?_⟩
  rw [effectiveAddress, hvj, ha]
  rfl

/-- The form of the instruction of an entry. -/
theorem Claims.pool_form (hs : Claims p s) (inFlight : InFlight s) (he : InPool s e) :
    issueTableOp e.ins.op = some (formOf e.ins) := by
  obtain ⟨h, eh, hins, _⟩ := inFlight.pool_owner he
  exact hins ▸ (hs.shape h (robAt_mem eh)).form

end

end Sys2Proof.Machine
end

section
/-! PROOFS. One visit of the ALU, the MULDIV unit or address generation hands on what sequential execution has. -/

namespace Sys2Proof.Machine

section

variable {p : Stretch} {s u : State} {t : Tag} {o : Op} {i : Instr} {h : RobEntry} {e : RsEntry} {v : Word}

theorem aluTableOp_total {form : IssueForm} (hk : AluKind o) (hform : issueTableOp o = some form) (j k pc : Word) :
    ∃ v, aluTableOp o j k pc = some v := by
  cases o with
  | nop => exact ⟨0, rfl⟩
  | ins i =>
    rcases hk with hk | hk | hk | hk
    · obtain ⟨v, hv⟩ : ∃ v, aluTable i j k pc = some v := by
        replace hk : kindOf i = .alu := hk
        cases i <;> cases hk <;> exact ⟨_, rfl⟩
      exact ⟨v, hv⟩
    · replace hk : kindOf i = .branch := hk
      cases i <;> cases hk <;> exact ⟨_, rfl⟩
    · replace hk : kindOf i = .syscall := hk
      cases i <;> cases hk
      exact ⟨_, rfl⟩
    · replace hk : kindOf i = .suppressed := hk
      cases i <;> cases hk <;> cases hform

theorem InFlight.pool_op (hs : InFlight s) (known : ∀ h, robAt s t = some h → h.ins.op = o) (he : InPool s e)
    (hd : e.dest = t) : e.ins.op = o := by
  obtain ⟨h, eh, hins, _⟩ := hs.pool_owner he
  rw [← hins]
  exact known h (hd ▸ eh)

theorem exists_firstWhere {α : Type} {P : α → Prop} [DecidablePred P] {l : List α} (h : ∃ x ∈ l, P x) :
    ∃ before x after, FirstWhere P l before x after := by
  obtain ⟨x, hx, hp⟩ := h
  obtain ⟨y, hy⟩ : ∃ y, l.find? (fun x => decide (P x)) = some y :=
    Option.isSome_iff_exists.1 (List.find?_isSome.2 ⟨x, hx, decide_eq_true hp⟩)
  obtain ⟨before, after, hsplit, hpy, hnone⟩ := find_some_split hy
  exact ⟨before, y, after, hsplit, of_decide_eq_true hpy, fun z hz => by simpa using hnone z hz⟩

/-- The ALU. -/
theorem Claims.alu_visit (hs : Claims p s) (inFlight : InFlight s) (hst : s.stage = .execute t)
    (known : ∀ h, robAt s t = some h → h.ins.op = o) (hk : AluKind o) (hx : execOp o s = .next u) : Claims p u := by
  by_cases hfound : ∃ x ∈ s.rsAlu, Eligible t x ∧ x.progress = 0
  · obtain ⟨before, e, after, hfirst⟩ := exists_firstWhere hfound
    have he : e ∈ s.rsAlu := by simp [hfirst.1]
    obtain ⟨⟨hd, hj, hqk⟩, _⟩ := hfirst.2.1
    have hop := inFlight.pool_op known (.inl he) hd
    have hform := hs.pool_form inFlight (.inl he)
    obtain ⟨v, hv⟩ := aluTableOp_total (hop.symm ▸ hk) hform e.vj e.vk e.ins.pc
    cases (execOp_execute_table hst hfirst (hop ▸ hv)).symm.trans hx
    refine hs.evaluated hfirst.1 fun q hq => ?_
    obtain ⟨hvj, hvk, hpc, _⟩ := hs.operands_ready inFlight (.inl he) hj hqk hq
    exact right_alu hpc (hvj ▸ hvk ▸ hv)
  · have idle (f : Word → Word → Word → Word) : aluEvaluate f t s = s :=
      aluEvaluate_none f fun x hm hp => hfound ⟨x, hm, hp⟩
    cases o with
    | nop =>
      rw [execOp_nop_execute hst, idle] at hx
      cases hx
      exact hs
    | ins i =>
      obtain ⟨f, hf⟩ := exec_execute_alu hst hk
      rw [show execOp (.ins i) s = exec i s from rfl, hf, idle] at hx
      cases hx
      exact hs

/-- The MULDIV unit as a function of its operands (42_muldiv.md R242 to R250). -/
theorem exec_execute_md (hst : s.stage = .execute t) (hk : kindOf i = .mul ∨ kindOf i = .div) (j k : Word) :
    ∃ f op, exec i s = .next (mdAdvance (latency s.cfg (.ins i)) f op t s) ∧ f j k = mdValue s.cfg i j k := by
  rcases hk with hk | hk
  · obtain ⟨v, hv⟩ := mulTable_of_kind hk j k
    obtain ⟨f, hexec, hf⟩ := exec_execute_mulTable hst hv
    have none : divOpOf i = none := by cases i <;> cases hk <;> rfl
    exact ⟨_, _, latency_mul s.cfg hk ▸ hexec, by rw [mdValue, none, hv, hf]⟩
  · obtain ⟨op, hop⟩ := divOpOf_of_kind hk
    exact ⟨_, _, latency_div s.cfg hk ▸ exec_execute_div hst hop, (divide_eq_mdValue hop j k).symm⟩

/-- The MULDIV unit. -/
theorem Claims.md_visit (hs : Claims p s) (inFlight : InFlight s) (hst : s.stage = .execute t)
    (known : ∀ h, robAt s t = some h → h.ins.op = .ins i) (hk : kindOf i = .mul ∨ kindOf i = .div)
    (hx : exec i s = .next u) (hu : u.status = .running) : Claims p u := by
  cases hfind : s.rsMd.find? fun e => entryReady t e && decide (e.progress < latency s.cfg (.ins i)) with
  | none =>
    obtain ⟨f, op, hexec, _⟩ := exec_execute_md hst hk 0 0
    rw [hexec, mdAdvance, hfind] at hx
    cases hx
    exact hs
  | some e =>
    have he : e ∈ s.rsMd := List.mem_of_find?_eq_some hfind
    have found := List.find?_some hfind
    obtain ⟨hready, _⟩ := Bool.and_eq_true_iff.1 found
    obtain ⟨hd, hr⟩ := entryReady_iff.1 hready
    obtain ⟨hj, hqk⟩ : e.qj = 0 ∧ e.qk = 0 := by simpa [RsEntry.ready] using hr
    have hop := inFlight.pool_op known (.inr (.inl he)) hd
    obtain ⟨f, op, hexec, hf⟩ := exec_execute_md hst hk e.vj e.vk
    rw [hexec, mdAdvance, hfind] at hx
    dsimp only at hx
    split at hx
    · cases hv : f e.vj e.vk with
      | none =>
        rw [hv] at hx
        cases hx
        cases hu
      | some v =>
        rw [hv] at hx
        cases hx
        refine hs.advanced he fun _ q hq => ?_
        obtain ⟨hvj, hvk, _⟩ := hs.operands_ready inFlight (.inr (.inl he)) hj hqk hq
        refine right_md hop hk ?_
        rw [hs.cfg, ← hvj, ← hvk, ← hf, hv]
    · rename_i hlast
      cases hx
      refine hs.advanced (v := e.result) he fun hdone => ?_
      have hless := of_decide_eq_true (Bool.and_eq_true_iff.1 found).2
      rw [hop] at hdone
      exact absurd (Nat.le_antisymm hless hdone) hlast

/-! ### Address generation -/

/-- What address generation knows of the entry it takes. -/
theorem Claims.agu_entry (hs : Claims p s) (inFlight : InFlight s) (hx : aguEntry t s = some e) {q : InOrder}
    (hq : p.before t = some q) : effectiveAddress e = addressOf e.ins q ∧ e.vk = operandK e.ins q := by
  obtain ⟨he, hd⟩ := aguEntry_mem hx
  have ready := List.find?_some hx
  obtain ⟨hj, hk⟩ : e.qj = 0 ∧ e.qk = 0 := by
    simpa [RsEntry.ready] using (entryReady_iff.1 (Bool.and_eq_true_iff.1 ready).1).2
  obtain ⟨_, hvk, _, haddr⟩ := hs.operands_ready inFlight (.inr (.inr he)) hj hk (hd ▸ hq)
  exact ⟨haddr, hvk⟩

theorem Claims.new_lb (hs : Claims p s) (inFlight : InFlight s) (hlat : 1 ≤ s.cfg.cacheLat) (hx : aguEntry t s = some e)
    {src : Word} (hsrc : opKind e.ins.op = .amo → src = e.vk) (q : InOrder) (hq : p.before e.dest = some q) :
    LbHolds p q (newLbEntry e src) := by
  obtain ⟨_, hd⟩ := aguEntry_mem hx
  obtain ⟨haddr, hvk⟩ := hs.agu_entry inFlight hx (hd ▸ hq)
  refine ⟨haddr, fun hk => (hsrc hk).trans hvk, fun h => (nomatch h), fun h => (nomatch h), fun h => ?_⟩
  rw [hs.cfg] at h
  exact absurd h (Nat.not_le.2 hlat)

theorem Claims.set_address (hs : Claims p s) (inFlight : InFlight s) (hx : aguEntry t s = some e) :
    Claims p (setAddress t (effectiveAddress e) s) := by
  refine hs.updated (f := fun h => { h with addr := effectiveAddress e, addrReady := true }) (fun _ => rfl) (fun _ => rfl)
    (fun h hh => ⟨hh.dest, hh.form, hh.queued⟩) fun h hm ht q hq hh => ?_
  obtain ⟨he, hd⟩ := aguEntry_mem hx
  obtain ⟨g, eg, hins, _⟩ := inFlight.pool_owner (agu_inPool e he)
  have same : h.ins = e.ins := by
    have eh := robAt_of_mem inFlight.order hm
    rw [ht, ← hd, eg] at eh
    cases eh
    exact hins
  obtain ⟨haddr, _⟩ := hs.agu_entry inFlight hx (ht ▸ hq)
  exact ⟨hh.pc, hh.complete, hh.syscall, fun _ => same ▸ haddr, hh.data, hh.queue, hh.amo⟩

theorem Claims.load_visit (hs : Claims p s) (inFlight : InFlight s) (hlat : 1 ≤ s.cfg.cacheLat)
    (known : ∀ h, robAt s t = some h → h.ins.op = o) (hk : opKind o = .load) : Claims p (aguLoad t s) := by
  unfold aguLoad
  split
  · exact hs
  · rename_i e hx
    obtain ⟨he, hd⟩ := aguEntry_mem hx
    have hop := inFlight.pool_op known (agu_inPool e he) hd
    exact (hs.added (hs.new_lb inFlight hlat hx (by simp [hop, hk]))).dropped t

theorem Claims.store_visit (hs : Claims p s) (inFlight : InFlight s) (hu : (aguStore t s).status = .running) :
    Claims p (aguStore t s) := by
  unfold aguStore at hu ⊢
  split at hu
  · exact hs
  · rename_i e hx
    split at hu
    · cases hu
    · exact (hs.set_address inFlight hx).dropped t

theorem Claims.amo_visit (hs : Claims p s) (inFlight : InFlight s) (hlat : 1 ≤ s.cfg.cacheLat)
    (hu : (aguAmo t s).status = .running) : Claims p (aguAmo t s) := by
  unfold aguAmo at hu ⊢
  split at hu
  · exact hs
  · rename_i e hx
    split at hu
    · cases hu
    · exact ((hs.set_address inFlight hx).added (hs.new_lb inFlight hlat hx fun _ => rfl)).dropped t

theorem Claims.loadReserved_visit (hs : Claims p s) (inFlight : InFlight s)
    (known : ∀ h, robAt s t = some h → h.ins.op = .ins i) (hk : kindOf i = .loadReserved)
    (hu : (aguLoadReserved t s).status = .running) : Claims p (aguLoadReserved t s) := by
  unfold aguLoadReserved at hu ⊢
  split at hu
  · exact hs
  · rename_i e hx
    split at hu
    · cases hu
    · have addressed := hs.set_address inFlight hx
      have cases_mem {x : RsEntry} (hx : x ∈ updateFirst (fun x => entryReady t x && x.progress == 0)
          (fun x => { x with result := 0, progress := 1 }) s.rsAgu) : x ∈ s.rsAgu ∨
          ∃ y ∈ s.rsAgu, y.dest = t ∧ x = { y with result := 0, progress := 1 } :=
        (mem_updateFirst hx).imp_right fun ⟨y, hy, hp, h⟩ =>
          ⟨y, hy, (entryReady_iff.1 (Bool.and_eq_true_iff.1 hp).1).1, h⟩
      refine ⟨addressed.cfg, addressed.mem, addressed.records, addressed.wf, addressed.shape, addressed.entry,
        fun x hx => ?_, addressed.alu, addressed.md, fun x hx hkind hp => ?_, addressed.lb⟩
      · rcases hx with hx | hx | hx
        · exact hs.operands x (.inl hx)
        · exact hs.operands x (.inr (.inl hx))
        · rcases cases_mem hx with hx | ⟨y, hy, _, rfl⟩
          · exact hs.operands x (agu_inPool x hx)
          · intro q hq
            obtain ⟨hj, hk, ha, hconst⟩ := hs.operands y (agu_inPool y hy) q hq
            exact ⟨hj, hk, ha, hconst⟩
      · rcases cases_mem hx with hx | ⟨y, hy, hd, rfl⟩
        · exact hs.agu x hx hkind hp
        · have hop : y.ins.op = .ins i := inFlight.pool_op known (agu_inPool y hy) hd
          exact fun q _ => right_loadReserved (r := y.ins) hop hk

/-- A visit of the execute stage. -/
theorem Claims.execute_visit (hs : Claims p s) (inFlight : InFlight s) (hlat : 1 ≤ s.cfg.cacheLat)
    (known : ∀ h, robAt s t = some h → h.ins.op = o) (hx : execAt (.execute t) o s = .next u) (hu : u.status = .running) :
    Claims p u := by
  obtain ⟨v, hv, rfl⟩ := execAt_inv hx
  refine Claims.setStage ?_ .fetch
  have hstaged : Claims p { s with stage := .execute t } := hs.setStage _
  have inFlight' : InFlight { s with stage := .execute t } := inFlight.congr rfl
  have alu (hk : AluKind o) : Claims p v := hstaged.alu_visit inFlight' rfl known hk hv
  cases o with
  | nop => exact alu (.inr (.inr (.inr rfl)))
  | ins i =>
    cases hk : kindOf i with
    | alu => exact alu (.inl hk)
    | branch => exact alu (.inr (.inl hk))
    | syscall => exact alu (.inr (.inr (.inl hk)))
    | suppressed => exact alu (.inr (.inr (.inr hk)))
    | mul => exact hstaged.md_visit inFlight' rfl known (.inl hk) hv hu
    | div => exact hstaged.md_visit inFlight' rfl known (.inr hk) hv hu
    | load =>
      cases (exec_execute_load rfl hk).symm.trans hv
      exact hstaged.load_visit inFlight' hlat known hk
    | store w =>
      cases (exec_execute_store rfl hk).symm.trans hv
      exact hstaged.store_visit inFlight' hu
    | amo =>
      cases (exec_execute_amo rfl hk).symm.trans hv
      exact hstaged.amo_visit inFlight' hlat hu
    | loadReserved =>
      cases (exec_execute_loadReserved rfl hk).symm.trans hv
      exact hstaged.loadReserved_visit inFlight' known hk hu
    | refused =>
      cases (exec_refused hk).symm.trans hv
      cases hu

end

end Sys2Proof.Machine
end

section
/-! PROOFS. The disambiguation scan against sequential execution: while no case of R442 is met, what it forwards and what
memory holds is what the access reads in program order (43_load_store_amo.md R273 to R277; 70_reset_and_hazards.md R442). -/

namespace Sys2Proof.Machine

/-! ### Reads behind a write -/

section

variable {m m' : Memory} {a b v : Word} {n k : Nat} {c : Config} {wl ws : Width}

/-- MemRead sees its own bytes only. -/
theorem memRead_congr (h : ∀ k < n, readByte m (a + BitVec.ofNat 32 k) = readByte m' (a + BitVec.ofNat 32 k)) :
    memRead m a n = memRead m' a n := by
  induction n generalizing a with
  | zero => rfl
  | succ n ih =>
    have first : readByte m a = readByte m' a := by simpa using h 0 (Nat.succ_pos n)
    have later : memRead m (a + 1) n = memRead m' (a + 1) n := ih fun k hk => by
      rw [add_one_add_ofNat]
      exact h (k + 1) (Nat.succ_lt_succ hk)
    rw [memRead, memRead, first, later]

theorem memRead_memWrite_apart (h : ¬ Overlap b k a n) : memRead (memWrite m b k v) a n = memRead m a n :=
  memRead_congr fun i hi => readByte_memWrite_other k m b v _ fun j hj he => h ⟨j, hj, i, hi, he.symm⟩

/-- A word that was written is read back, in full or its low bytes. -/
theorem memRead_memWrite_lowBytes (hm : Memory.wf m) (h : widthBytes wl ≤ widthBytes ws) :
    memRead (memWrite m a (widthBytes ws) v) a (widthBytes wl) = lowBytes wl v := by
  have small (w : Width) : widthBytes w ≤ 4 := by cases w <;> decide
  have bytes := readByte_memWrite_same (widthBytes ws) a v hm (Nat.le_trans (small ws) (by omega))
  rw [lowBytes_eq_mod]
  apply BitVec.eq_of_toNat_eq
  rw [toNat_memRead_of_bytes (small wl) fun j hj => bytes j (Nat.lt_of_lt_of_le hj h), BitVec.toNat_ofNat]
  have bits : widthBits wl = 8 * widthBytes wl := by cases wl <;> rfl
  rw [bits, Nat.mod_eq_of_lt (a := _ % _)]
  exact Nat.lt_of_le_of_lt (Nat.mod_le _ _) v.isLt

/-- An access that is allowed is allowed in part. -/
theorem Allowed.narrower (h : Allowed c a (widthBytes ws)) (hw : widthBytes wl ≤ widthBytes ws) :
    Allowed c a (widthBytes wl) := by
  refine ⟨fun ⟨hc, hn⟩ => ?_, fun k hk => h.2 k (Nat.lt_of_lt_of_le hk hw)⟩
  have divides : widthBytes wl ∣ widthBytes ws := by
    cases wl <;> cases ws <;> first
      | exact absurd hw (by decide)
      | decide
  have whole : a.toNat % widthBytes ws = 0 := by
    by_contra hne
    exact h.1 ⟨hc, hne⟩
  exact hn (Nat.mod_eq_zero_of_dvd (divides.trans (Nat.dvd_of_mod_eq_zero whole)))

/-- Two accesses at one address overlap. -/
theorem overlap_same (hn : 0 < n) (hk : 0 < k) : Overlap a n a k := ⟨0, hn, 0, hk, rfl⟩

theorem widthBytes_pos (w : Width) : 0 < widthBytes w := by cases w <;> decide

theorem accessBytes_pos (o : Op) : 0 < accessBytes o := by
  cases o with
  | nop => decide
  | ins i =>
    rw [accessBytes]
    split
    · exact widthBytes_pos _
    · decide

end

/-! ### What the scan has found -/

section

variable {c : Config} {l : LbEntry} {w : Width} {xs : List RobEntry} {v : Word}

theorem forwardFrom_value {ws : Width} {h : RobEntry} (hf : forwardFrom c l w ws h = .forward v) : v = lowBytes w h.wb := by
  unfold forwardFrom at hf
  split at hf
  · exact (Scan.forward.inj hf).symm
  · split at hf
    · cases hf
    · exact (Scan.forward.inj hf).symm

/-- A scan that ends at memory has passed every entry. -/
theorem scanOlder_memory (h : scanOlder c l w xs = .memory) : ∀ x ∈ xs, Passed l.addr x := by
  induction xs with
  | nil => exact fun _ hx => nomatch hx
  | cons y ys ih =>
    rw [scanOlder] at h
    have both (hy : Passed l.addr y) (hys : scanOlder c l w ys = .memory) : ∀ x ∈ y :: ys, Passed l.addr x :=
      List.forall_mem_cons.2 ⟨hy, ih hys⟩
    split at h
    · rename_i hw
      exact both (.inl hw) h
    · split at h
      · cases h
      · rename_i ready
        split at h
        · split at h
          · unfold forwardFrom at h
            split at h
            · cases h
            · split at h <;> cases h
          · cases h
        · rename_i hne
          exact both (.inr ⟨by simpa using ready, hne⟩) h

/-- A scan that forwards has passed the entries up to the one it takes the value from. -/
theorem scanOlder_forward (h : scanOlder c l w xs = .forward v) : ∃ passed g rest ws, xs = passed ++ g :: rest ∧
    (∀ x ∈ passed, Passed l.addr x) ∧ storeWidth g.ins.op = some ws ∧ g.addrReady = true ∧ g.addr = l.addr ∧
    g.valueReady = true ∧ v = lowBytes w g.wb := by
  induction xs with
  | nil => cases h
  | cons y ys ih =>
    rw [scanOlder] at h
    have further (hy : Passed l.addr y) (hys : scanOlder c l w ys = .forward v) :
        ∃ passed g rest ws, y :: ys = passed ++ g :: rest ∧ (∀ x ∈ passed, Passed l.addr x) ∧
          storeWidth g.ins.op = some ws ∧ g.addrReady = true ∧ g.addr = l.addr ∧ g.valueReady = true ∧
          v = lowBytes w g.wb := by
      obtain ⟨passed, g, rest, ws, rfl, hpassed, hg⟩ := ih hys
      exact ⟨y :: passed, g, rest, ws, rfl, List.forall_mem_cons.2 ⟨hy, hpassed⟩, hg⟩
    split at h
    · rename_i hw
      exact further (.inl hw) h
    · rename_i ws hw
      split at h
      · cases h
      · rename_i ready
        have hready : y.addrReady = true := by simpa using ready
        split at h
        · rename_i hsame
          split at h
          · rename_i hvalue
            exact ⟨[], y, ys, ws, rfl, fun _ hx => (nomatch hx), hw, hready, hsame, hvalue, forwardFrom_value h⟩
          · cases h
        · rename_i hne
          exact further (.inr ⟨hready, hne⟩) h

end

/-! ### Along the reorder buffer -/

section

variable {p : Stretch} {s u : State} {h g : RobEntry} {l : LbEntry} {older younger : List RobEntry} {q : InOrder}

/-- A property of the sequential states is carried along entries that keep it. -/
theorem Claims.carried {P : InOrder → Prop} (hs : Claims p s) (inFlight : InFlight s) {base more rest : List RobEntry}
    (hrob : s.rob = base ++ (more ++ rest))
    (start : ∀ q, followAll p.cfg p.start (base.map (·.ins)) = some q → P q)
    (kept : ∀ e ∈ more, ∀ q, p.before e.tag = some q → P q → ∀ u, follow p.cfg q e.ins = some u → P u) :
    ∀ q, followAll p.cfg p.start ((base ++ more).map (·.ins)) = some q → P q := by
  induction more generalizing base with
  | nil =>
    rw [List.append_nil]
    exact start
  | cons e more ih =>
    have moved : base ++ e :: more = (base ++ [e]) ++ more := by simp
    rw [moved]
    refine ih (by rw [hrob]; simp) (fun q hq => ?_) fun x hx => kept x (List.mem_cons_of_mem _ hx)
    rw [List.map_append, followAll_append] at hq
    obtain ⟨q', hq', hstep⟩ := Option.bind_eq_some_iff.1 hq
    rw [List.map_singleton, followAll_singleton] at hstep
    have hbefore : p.before e.tag = some q' := by
      rw [before_rob inFlight.order hs.records (older := base) (h := e) (younger := more ++ rest) hrob]
      exact hq'
    exact kept e List.mem_cons_self q' hbefore (start q' hq') q hstep

/-- Memory is canonical before every entry. -/
theorem Claims.mem_wf (hs : Claims p s) (inFlight : InFlight s) (hm : h ∈ s.rob) (hq : p.before h.tag = some q) :
    Memory.wf q.mem := by
  obtain ⟨older, younger, hrob⟩ := List.append_of_mem hm
  rw [before_rob inFlight.order hs.records hrob] at hq
  refine hs.carried (P := fun q => Memory.wf q.mem) inFlight (base := []) (more := older) hrob (fun q hq => ?_)
    (fun e he q _ hwf u hu => ?_) q hq
  · cases hq
    exact hs.mem ▸ hs.wf
  · exact (follow_effect (hs.shape e (by rw [hrob]; exact List.mem_append_left _ he)).form hu).mem_wf hwf

/-- A store-class entry with its address and its value writes what sequential execution writes. -/
theorem EntryHolds.written {c : Config} {u : InOrder} {ws : Width} (hh : EntryHolds p q h) (hc : p.cfg = c)
    (hw : storeWidth h.ins.op = some ws) (ha : h.addrReady = true) (hv : h.valueReady = true)
    (hu : follow c q h.ins = some u) :
    Allowed c h.addr (widthBytes ws) ∧ u.mem = memWrite q.mem h.addr (widthBytes ws) h.wb := by
  subst hc
  have haddr := hh.addr ha
  cases hop : h.ins.op with
  | nop => rw [hop] at hw; cases hw
  | ins i =>
    have kind {k : Kind} (hk : kindOf i = k) : opKind h.ins.op = k := by rw [hop]; exact hk
    rw [hop] at hw
    rcases storeWidth_some (o := .ins i) (by simp [hw]) with ⟨w, hk⟩ | hk
    · replace hk : kindOf i = .store w := hk
      cases (storeWidth_of_kind hk).symm.trans hw
      obtain ⟨a, b, imm, hshape⟩ : ∃ a b imm, storeShape i = some (ws, a, b, imm) := by
        cases i <;> cases hk <;> exact ⟨_, _, _, rfl⟩
      rw [follow_store hop hshape] at hu
      split at hu
      · rename_i hallowed
        cases hu
        rw [haddr, hh.data ws (kind hk) hv]
        exact ⟨hallowed, rfl⟩
      · cases hu
    · replace hk : kindOf i = .amo := hk
      cases (storeWidth_amo hk).symm.trans hw
      obtain ⟨u', hu', hmem, _⟩ := hh.amo (kind hk) hv
      cases hu.symm.trans hu'
      rw [haddr]
      rw [follow_amo hop hk] at hu
      split at hu
      · rename_i hallowed
        exact ⟨hallowed, hmem⟩
      · cases hu

/-- No access in the load buffer meets case 1 or 2 of R442. -/
def NoHazard (s : State) : Prop := ∀ l ∈ s.lb, ∀ h ∈ s.rob, ¬ StoreHazard l h

/-- An entry that the scan passes by leaves the accessed bytes alone. -/
theorem Claims.passed_keeps (hs : Claims p s) (clear : NoHazard s) (hl : l ∈ s.lb) (hm : g ∈ s.rob)
    (hold : g.tag < l.owner) (hp : Passed l.addr g) (hq : p.before g.tag = some q) {u : InOrder}
    (hu : follow p.cfg q g.ins = some u) :
    memRead u.mem l.addr (accessBytes l.ins.op) = memRead q.mem l.addr (accessBytes l.ins.op) := by
  have effect := follow_effect (hs.shape g hm).form hu
  cases hw : storeWidth g.ins.op with
  | none => rw [effect.mem_of_plain hw]
  | some ws =>
    obtain ⟨ready, apart⟩ := hp.resolve_left (by simp [hw])
    obtain ⟨x, hx⟩ := effect.mem_of_store hw
    rw [hx, ← (hs.entry g hm q hq).addr ready]
    exact memRead_memWrite_apart fun hov => clear l hl g hm ⟨hold, ready, ws, hw, hov, fun h => apart h.1⟩

end

end Sys2Proof.Machine
end

section
/-! PROOFS. The load buffer does what sequential execution does, while no case of R442 is met (43_load_store_amo.md R270 to
R281). -/

namespace Sys2Proof.Machine

section

variable {p : Stretch} {s u : State} {h g : RobEntry} {l m : LbEntry} {older younger : List RobEntry} {q : InOrder}
  {t : Tag} {o : Op} {i : Instr} {w : Width} {v : Word}

/-! ### An entry that is cleared -/

theorem older_lt (ho : TagsInOrder s) (hrob : s.rob = older ++ h :: younger) (hm : g ∈ older) : g.tag < h.tag := by
  have order := ((tagsInOrder_iff s).1 ho).1
  rw [robTags, hrob, List.map_append, List.map_cons] at order
  exact (List.pairwise_append.1 order).2.2 _ (List.mem_map_of_mem hm) _ List.mem_cons_self

theorem lt_younger (ho : TagsInOrder s) (hrob : s.rob = older ++ h :: younger) (hm : g ∈ younger) : h.tag < g.tag := by
  have order := ((tagsInOrder_iff s).1 ho).1
  rw [robTags, hrob, List.map_append, List.map_cons] at order
  exact (List.pairwise_cons.1 (List.pairwise_append.1 order).2.1).1 _ (List.mem_map_of_mem hm)

/-- A record of a tag up to that of an entry is that entry's or an older one's. -/
theorem record_upTo (ho : TagsInOrder s) (hrob : s.rob = older ++ h :: younger) {x : Tag × Decoded} (hx : x ∈ flight s)
    (hle : x.1 ≤ h.tag) : ∃ base e rest, s.rob = base ++ e :: rest ∧ e.tag = x.1 ∧ ∀ y ∈ base, y ∈ older := by
  have hmem : h ∈ s.rob := by simp [hrob]
  rcases List.mem_append.1 hx with hx | hx
  · obtain ⟨e, he, rfl⟩ := List.mem_map.1 hx
    rw [hrob] at he
    rcases List.mem_append.1 he with he | he
    · obtain ⟨base, rest, rfl⟩ := List.append_of_mem he
      exact ⟨base, e, rest ++ h :: younger, by simp [hrob], rfl, fun y hy => List.mem_append_left _ hy⟩
    · rcases List.mem_cons.1 he with rfl | he
      · exact ⟨older, e, younger, hrob, rfl, fun _ => id⟩
      · exact absurd (lt_younger ho hrob he) (Nat.not_lt.2 hle)
  · have hnext := (le_of_mem_numbered hx).1
    have hlt := (((tagsInOrder_iff s).1 ho).2.1 _ (List.mem_map_of_mem hmem)).2
    exact absurd (Nat.lt_of_lt_of_le hlt hnext) (Nat.not_lt.2 hle)

theorem Claims.start_mem_kept (hs : Claims p s) (inFlight : InFlight s) (clear : NoHazard s) (hl : l ∈ s.lb)
    (hrob : s.rob = older ++ h :: younger) (ht : h.tag = l.owner) (passed : ∀ x ∈ older, Passed l.addr x)
    {x : Tag × Decoded} (hx : x ∈ p.records) (hle : x.1 ≤ l.owner) (hq : p.before x.1 = some q) :
    memRead q.mem l.addr (accessBytes l.ins.op) = memRead p.start.mem l.addr (accessBytes l.ins.op) := by
  obtain ⟨base, e, rest, hsplit, htag, hbase⟩ := record_upTo inFlight.order hrob (hs.records ▸ hx) (ht ▸ hle)
  rw [← htag, before_rob inFlight.order hs.records hsplit] at hq
  refine hs.carried inFlight (base := []) (more := base) hsplit
    (P := fun q => memRead q.mem l.addr (accessBytes l.ins.op) = memRead p.start.mem l.addr (accessBytes l.ins.op))
    (fun q hq => ?_) (fun y hy q hq hsame u hu => ?_) q hq
  · cases hq
    rfl
  · have hold := hbase y hy
    have hmem : y ∈ s.rob := by rw [hrob]; exact List.mem_append_left _ hold
    exact (hs.passed_keeps clear hl hmem (ht ▸ older_lt inFlight.order hrob hold) (passed y hold) hq hu).trans hsame

/-- The value that a store on the way has ready is what the access reads. -/
theorem Claims.forwarded_value (hs : Claims p s) (inFlight : InFlight s) (clear : NoHazard s) (hl : l ∈ s.lb)
    {first second : List RobEntry} {ws : Width} (hrob : s.rob = first ++ g :: (second ++ h :: younger))
    (ht : h.tag = l.owner) (passed : ∀ x ∈ second, Passed l.addr x) (hw : storeWidth g.ins.op = some ws)
    (ha : g.addrReady = true) (haddr : g.addr = l.addr) (hv : g.valueReady = true)
    (hbytes : accessBytes l.ins.op = widthBytes w) (hq : p.before l.owner = some q) :
    Allowed p.cfg l.addr (widthBytes w) ∧ memRead q.mem l.addr (widthBytes w) = lowBytes w g.wb := by
  have hrob' : s.rob = (first ++ g :: second) ++ h :: younger := by simp [hrob]
  have below {y : RobEntry} (hy : y ∈ first ++ g :: second) : y.tag < l.owner := ht ▸ older_lt inFlight.order hrob' hy
  have hg : g ∈ s.rob := by simp [hrob]
  have hwide : widthBytes w ≤ widthBytes ws := by
    by_contra hnarrow
    refine clear l hl g hg ⟨below (by simp), ha, ws, hw, ?_, fun hsame => hnarrow (hbytes ▸ hsame.2)⟩
    rw [haddr]
    exact overlap_same (widthBytes_pos _) (accessBytes_pos _)
  rw [← ht, before_rob inFlight.order hs.records hrob', show first ++ g :: second = (first ++ [g]) ++ second by simp] at hq
  refine hs.carried inFlight (base := first ++ [g]) (more := second) (rest := h :: younger)
    (by simp [hrob])
    (P := fun q => Allowed p.cfg l.addr (widthBytes w) ∧ memRead q.mem l.addr (widthBytes w) = lowBytes w g.wb)
    (fun q hq => ?_) (fun y hy q hq hsame u hu => ⟨hsame.1, ?_⟩) q hq
  · rw [List.map_append, followAll_append] at hq
    obtain ⟨q', hq', hstep⟩ := Option.bind_eq_some_iff.1 hq
    rw [List.map_singleton, followAll_singleton] at hstep
    rw [← before_rob inFlight.order hs.records hrob] at hq'
    obtain ⟨hallowed, hmem⟩ := (hs.entry g hg q' hq').written rfl hw ha hv hstep
    rw [haddr] at hallowed hmem
    rw [hmem]
    exact ⟨hallowed.narrower hwide, memRead_memWrite_lowBytes (hs.mem_wf inFlight hg hq') hwide⟩
  · have kept := hs.passed_keeps clear hl (by rw [hrob]; simp [hy]) (below (by simp [hy])) (passed y hy) hq hu
    rw [hbytes] at kept
    exact kept.trans hsame.2

/-- An entry that its scan clears. -/
theorem Claims.cleared (hs : Claims p s) (inFlight : InFlight s) (clear : NoHazard s) (hl : l ∈ s.lb)
    (hbytes : accessBytes l.ins.op = widthBytes w) {fwd : Option Word} (hscan : disambiguate s l w = clearingScan fwd)
    (hless : l.progress < s.cfg.cacheLat) (hq : p.before l.owner = some q) : LbHolds p q (clearedEntry l fwd) := by
  obtain ⟨haddr, hsrc, _⟩ := hs.lb l hl q hq
  obtain ⟨g, eg, hins, _⟩ := inFlight.lb_owner hl
  obtain ⟨older, younger, ho⟩ := owner_of_robAt eg
  rw [disambiguate_owner w ho] at hscan
  refine ⟨haddr, hsrc, fun _ v hv => ?_, fun _ hnone x hx hle q' hq' => ?_,
    fun hdone => absurd hdone (Nat.not_le.2 (hs.cfg ▸ hless))⟩
  · obtain rfl : fwd = some v := hv
    obtain ⟨passed, g', rest, ws, hsplit, hpassed, hw, ha, hsame, hvalue, rfl⟩ := scanOlder_forward hscan
    have hrob : s.rob = rest.reverse ++ g' :: (passed.reverse ++ g :: younger) := by
      rw [ho.1, ← List.reverse_reverse older, hsplit]
      simp
    obtain ⟨hallowed, hread⟩ := hs.forwarded_value inFlight clear hl hrob ho.2.1
      (fun x hx => hpassed x (List.mem_reverse.1 hx)) hw ha hsame hvalue hbytes hq
    rw [← hbytes] at hallowed hread
    exact ⟨hallowed, hread.symm⟩
  · obtain rfl : fwd = none := hnone
    have hpassed := scanOlder_memory hscan
    exact hs.start_mem_kept (l := l) inFlight clear hl ho.1 ho.2.1 (fun x hx => hpassed x (List.mem_reverse.2 hx)) hx hle hq'

/-- The value of the last tick is the word that sequential execution reads. -/
theorem Claims.loaded_value (hs : Claims p s) (hm : LbHolds p q m) (hcleared : m.cleared = true)
    (eg : robAt s m.owner = some g) (hbytes : accessBytes m.ins.op = widthBytes w) (hq : p.before m.owner = some q)
    (hv : HasValue s m w v) :
    Allowed p.cfg (addressOf m.ins q) (widthBytes w) ∧ v = memRead q.mem (addressOf m.ins q) (widthBytes w) := by
  rw [← hm.addr]
  rcases hv with hfwd | ⟨hfwd, hallowed, rfl⟩
  · rw [← hbytes]
    exact hm.forwarded hcleared v hfwd
  · have hx : (m.owner, g.ins) ∈ p.records := by
      rw [hs.records, flight]
      exact List.mem_append_left _ (List.mem_map.2 ⟨g, robAt_mem eg, Prod.ext (robAt_tag eg) rfl⟩)
    have same := hm.unchanged hcleared hfwd _ hx (Nat.le_refl _) q hq
    rw [hbytes] at same
    exact ⟨hs.cfg ▸ hallowed, by rw [same, hs.mem]⟩

theorem LbHolds.finished (hm : LbHolds p q m) {x : Word} (hx : RightResult p.cfg q m.ins x) :
    LbHolds p q { m.counted with result := x } :=
  ⟨hm.addr, hm.src, hm.forwarded, hm.unchanged, fun _ => hx⟩

theorem LbHolds.counted (hm : LbHolds p q m) (hless : m.progress + 1 < p.cfg.cacheLat) : LbHolds p q m.counted :=
  ⟨hm.addr, hm.src, hm.forwarded, hm.unchanged, fun hdone => absurd hdone (Nat.not_le.2 hless)⟩

/-! ### What a visit of the load buffer leaves of the addresses -/

/-- Every access and every address of `s` is one of `u`. -/
structure Exposes (s u : State) : Prop where
  access : ∀ l ∈ s.lb, ∃ x ∈ u.lb, x.owner = l.owner ∧ x.ins = l.ins ∧ x.addr = l.addr
  entry : ∀ h ∈ s.rob, ∃ x ∈ u.rob, x.tag = h.tag ∧ x.ins = h.ins ∧ x.addr = h.addr ∧ x.addrReady = h.addrReady

theorem Exposes.refl (s : State) : Exposes s s :=
  ⟨fun l hl => ⟨l, hl, rfl, rfl, rfl⟩, fun h hm => ⟨h, hm, rfl, rfl, rfl, rfl⟩⟩

theorem Exposes.noHazard (e : Exposes s u) (clear : NoHazard u) : NoHazard s := by
  intro l hl h hm hazard
  obtain ⟨x, hx, howner, hins, haddr⟩ := e.access l hl
  obtain ⟨y, hy, htag, hyins, hyaddr, hready⟩ := e.entry h hm
  refine clear x hx y hy ?_
  rw [StoreHazard, howner, hins, haddr, htag, hyins, hyaddr, hready]
  exact hazard

theorem InFlight.exposes_setLb (inFlight : InFlight s) (hl : l ∈ s.lb) (howner : m.owner = l.owner) (hins : m.ins = l.ins)
    (haddr : m.addr = l.addr) : Exposes s (setLb m s) := by
  refine ⟨fun x hx => ?_, (Exposes.refl s).entry⟩
  by_cases hxl : x.owner = m.owner
  · cases inFlight.lb_inj hl hx (hxl.trans howner)
    exact ⟨m, mem_updateFirst_const hl (beq_iff_eq.2 howner.symm), howner, hins, haddr⟩
  · exact ⟨x, mem_updateFirst_of_not hx (beq_eq_false_iff_ne.2 hxl), rfl, rfl, rfl⟩

/-- The scan's view of an entry does not change with its value. -/
theorem Exposes.updateRob {f : RobEntry → RobEntry} (e : Exposes s u) (hf : ∀ h, (f h).tag = h.tag ∧ (f h).ins = h.ins ∧
    (f h).addr = h.addr ∧ (f h).addrReady = h.addrReady) : Exposes s (updateRob t f u) := by
  refine ⟨e.access, fun h hm => ?_⟩
  obtain ⟨x, hx, htag, hins, haddr, hready⟩ := e.entry h hm
  have view : (updateFirst (fun h => h.tag == t) f u.rob).map (fun h => (h.tag, h.ins, h.addr, h.addrReady)) =
      u.rob.map fun h => (h.tag, h.ins, h.addr, h.addrReady) :=
    updateFirst_map_of_mem _ fun x _ _ => by
      obtain ⟨h1, h2, h3, h4⟩ := hf x
      rw [h1, h2, h3, h4]
  have hin : (x.tag, x.ins, x.addr, x.addrReady) ∈
      (updateFirst (fun h => h.tag == t) f u.rob).map fun h => (h.tag, h.ins, h.addr, h.addrReady) := by
    rw [view]
    exact List.mem_map_of_mem hx
  obtain ⟨y, hy, he⟩ := List.mem_map.1 hin
  obtain ⟨h1, h2, h3, h4⟩ : y.tag = x.tag ∧ y.ins = x.ins ∧ y.addr = x.addr ∧ y.addrReady = x.addrReady := by simpa using he
  exact ⟨y, hy, h1.trans htag, h2.trans hins, h3.trans haddr, h4.trans hready⟩

/-- Of two writes to one entry the second stands. -/
theorem setLb_setLb {x : LbEntry} (h : x.owner = m.owner) : setLb m (setLb x s) = setLb m s := by
  have twice (xs : List LbEntry) : updateFirst (fun y => y.owner == m.owner) (fun _ => m)
      (updateFirst (fun y => y.owner == x.owner) (fun _ => x) xs) =
      updateFirst (fun y => y.owner == m.owner) (fun _ => m) xs := by
    rw [h]
    induction xs with
    | nil => rfl
    | cons y ys ih =>
      rw [updateFirst, updateFirst]
      split
      · rw [updateFirst, if_pos (beq_iff_eq.2 h)]
      · rename_i hy
        rw [updateFirst, if_neg hy, ih]
  unfold setLb
  exact congrArg (fun lb => { s with lb := lb }) (twice s.lb)

/-! ### The visit -/

theorem finishAmo_eq {result new : Word → Word → Word} {old : Word} (e : robAt s m.owner = some g) :
    finishAmo result new m old s = updateRob m.owner
      (fun h => { h with result := result old m.src, wb := new old m.src, valueReady := true })
      (setLb { m with result := result old m.src } s) := by
  have same : robAt (setLb { m with result := result old m.src } s) m.owner = some g := e
  unfold finishAmo
  dsimp only
  rw [same]

/-- What the last tick of a load leaves. -/
theorem finishOf_load_eq {sign : Bool} {rd a : Reg} {imm : Word} (hshape : loadShape i = some (w, sign, rd, a, imm)) :
    finishOf s.cfg i m.counted v (setLb m.counted s) = setLb { m.counted with result := extend w sign v } s := by
  rw [finishOf_load _ hshape, finishLoad]
  exact setLb_setLb rfl

/-- What the last tick of SC.W or an AMO leaves. -/
theorem finishOf_amo_eq (hk : kindOf i = .amo) (e : robAt s m.owner = some g) :
    finishOf s.cfg i m.counted v (setLb m.counted s) = updateRob m.owner
      (fun h => { h with result := amoResult s.cfg i v, wb := (amoTable i v m.src).getD 0, valueReady := true })
      (setLb { m.counted with result := amoResult s.cfg i v } s) := by
  rw [finishOf_amo _ hk, finishAmo_eq (s := setLb m.counted s) (m := m.counted) e]
  exact congrArg (updateRob _ _) (setLb_setLb rfl)

theorem InFlight.exposes_finish (inFlight : InFlight s) (hi : Buffered i w) (hl : l ∈ s.lb) (howner : m.owner = l.owner)
    (hins : m.ins = l.ins) (haddr : m.addr = l.addr) : Exposes s (finishOf s.cfg i m.counted v (setLb m.counted s)) := by
  have placed (x : Word) : Exposes s (setLb { m.counted with result := x } s) :=
    inFlight.exposes_setLb hl howner hins haddr
  rcases hi with ⟨sign, rd, a, imm, hshape⟩ | ⟨hk, rfl⟩
  · rw [finishOf_load_eq hshape]
    exact placed _
  · obtain ⟨g, eg, _⟩ := inFlight.lb_owner hl
    rw [finishOf_amo_eq hk (howner ▸ eg)]
    exact (placed _).updateRob fun _ => ⟨rfl, rfl, rfl, rfl⟩

/-- The last tick of an entry. -/
theorem Claims.finish (hs : Claims p s) (inFlight : InFlight s) (hi : Buffered i w) (hop : m.ins.op = .ins i)
    (hl : l ∈ s.lb) (howner : m.owner = l.owner) (hins : m.ins = l.ins)
    (hm : ∀ q, p.before m.owner = some q → LbHolds p q m) (hcleared : m.cleared = true) (hv : HasValue s m w v) :
    Claims p (finishOf s.cfg i m.counted v (setLb m.counted s)) := by
  obtain ⟨g, eg, hgins, _⟩ := inFlight.lb_owner hl
  rw [← howner] at eg
  have finished (x : Word) (hx : ∀ q, p.before m.owner = some q → RightResult p.cfg q m.ins x) :
      Claims p (setLb { m.counted with result := x } s) := hs.loaded fun q hq => (hm q hq).finished (hx q hq)
  rcases hi with ⟨sign, rd, a, imm, hshape⟩ | ⟨hk, rfl⟩
  · have hbytes : accessBytes m.ins.op = widthBytes w := by rw [hop, accessBytes, hshape]
    rw [finishOf_load_eq hshape]
    refine finished _ fun q hq => ?_
    obtain ⟨hallowed, hread⟩ := hs.loaded_value (hm q hq) hcleared eg hbytes hq hv
    exact right_load hop hshape hallowed (by rw [hread])
  · have hbytes : accessBytes m.ins.op = widthBytes .word := by rw [hop, accessBytes, loadShape_amo hk]; rfl
    have value (q : InOrder) (hq : p.before m.owner = some q) := hs.loaded_value (hm q hq) hcleared eg hbytes hq hv
    have right (q : InOrder) (hq : p.before m.owner = some q) : RightResult p.cfg q m.ins (amoResult s.cfg i v) :=
      hs.cfg ▸ right_amo hop hk (value q hq).1 (value q hq).2
    rw [finishOf_amo_eq hk eg]
    refine (finished _ right).updated (fun _ => rfl) (fun _ => rfl) (fun h hh => ⟨hh.dest, hh.form, hh.queued⟩)
      fun h hrob ht q hq hh => ?_
    have hsame : h.ins = m.ins := by
      have eh := robAt_of_mem inFlight.order hrob
      rw [ht] at eh
      cases eg.symm.trans eh
      exact hgins.trans hins.symm
    have hopk : opKind h.ins.op = .amo := by rw [hsame, hop]; exact hk
    rw [ht] at hq
    have hresult : RightResult p.cfg q h.ins (amoResult s.cfg i v) := hsame ▸ right q hq
    have followed := follow_amo_value hop hk (value q hq).1 (value q hq).2
    refine ⟨hh.pc, fun _ => hresult, fun _ _ => hresult, hh.addr,
      fun w hkw => absurd (hopk.symm.trans hkw) (by simp), hh.queue, fun _ _ => ?_⟩
    rw [hsame]
    refine ⟨_, followed, ?_, fun hd => (right q hq).read (.inr (hsame ▸ hopk)) hd followed⟩
    rw [(hm q hq).src (hsame ▸ hopk)]

theorem execOp_nop_load (hs : s.stage = .load t) : execOp .nop s = .next s := life_load hs _ _ _ _ _

/-- The load-buffer step on a tag. -/
theorem Claims.lb_advance (hs : NoHazard s → Claims p s) (inFlight : InFlight s) (hi : Buffered i w)
    (known : ∀ h, robAt s t = some h → h.ins.op = .ins i)
    (hu : (lbAdvance w (finishOf s.cfg i) t s).status = .running) (clear : NoHazard (lbAdvance w (finishOf s.cfg i) t s)) :
    Claims p (lbAdvance w (finishOf s.cfg i) t s) := by
  rcases lbAdvance_cases (finishOf s.cfg i) hu with ⟨hsame, _⟩ | ⟨l, m, hl, ⟨howner, hless⟩, hm, hproceed⟩
  · rw [hsame] at clear ⊢
    exact hs clear
  · obtain ⟨g, eg, hins, _⟩ := inFlight.lb_owner hl
    have hop : l.ins.op = .ins i := hins ▸ known g (howner ▸ eg)
    have hbytes : accessBytes l.ins.op = widthBytes w := by
      rw [hop]
      rcases hi with ⟨sign, rd, a, imm, hshape⟩ | ⟨hk, rfl⟩
      · rw [accessBytes, hshape]
      · rw [accessBytes, loadShape_amo hk]
        rfl
    obtain ⟨hmo, hmi, hma, hmp⟩ : m.owner = l.owner ∧ m.ins = l.ins ∧ m.addr = l.addr ∧ m.progress = l.progress := by
      rcases hm with ⟨rfl, _⟩ | ⟨_, _, _, rfl⟩ <;> exact ⟨rfl, rfl, rfl, rfl⟩
    have holds (clear : NoHazard s) : m.cleared = true ∧ ∀ q, p.before m.owner = some q → LbHolds p q m := by
      rcases hm with ⟨rfl, hc⟩ | ⟨fwd, _, hscan, rfl⟩
      · exact ⟨hc, (hs clear).lb m hl⟩
      · exact ⟨rfl, fun q hq => (hs clear).cleared inFlight clear hl hbytes hscan hless hq⟩
    rw [hproceed] at hu clear ⊢
    rcases lbProceed_cases (finishOf s.cfg i) hu with ⟨hcount, hp⟩ | ⟨hlast, v, hv, hp⟩
    · rw [hp] at clear ⊢
      have clear' := (inFlight.exposes_setLb (m := m.counted) hl hmo hmi hma).noHazard clear
      have hlt : m.progress + 1 < s.cfg.cacheLat := Nat.lt_of_le_of_ne (Nat.succ_le_of_lt (hmp ▸ hless)) hcount
      exact (hs clear').loaded fun q hq => ((holds clear').2 q hq).counted ((hs clear').cfg ▸ hlt)
    · rw [hp] at clear ⊢
      have clear' := (inFlight.exposes_finish hi hl hmo hmi hma).noHazard clear
      obtain ⟨hcleared, hholds⟩ := holds clear'
      exact (hs clear').finish inFlight hi (hmi ▸ hop) hl hmo hmi hholds hcleared hv

/-- A visit of the load buffer. -/
theorem Claims.load_buffer_visit (hs : NoHazard s → Claims p s) (inFlight : InFlight s)
    (known : ∀ h, robAt s t = some h → h.ins.op = o) (hx : execAt (.load t) o s = .next u) (hu : u.status = .running)
    (clear : NoHazard u) : Claims p u := by
  obtain ⟨v, hv, rfl⟩ := execAt_inv hx
  have hs' : NoHazard { s with stage := .load t } → Claims p { s with stage := .load t } := fun h => (hs h).setStage _
  have inFlight' : InFlight { s with stage := .load t } := inFlight.congr rfl
  refine Claims.setStage ?_ .fetch
  replace hu : v.status = .running := hu
  replace clear : NoHazard v := clear
  cases o with
  | nop =>
    cases (execOp_nop_load rfl).symm.trans hv
    exact hs' clear
  | ins i =>
    by_cases hk : kindOf i = .load ∨ kindOf i = .amo
    · obtain ⟨w, hi⟩ := buffered_of_kind hk
      cases (exec_load_buffered (s := { s with stage := .load t }) rfl hi).symm.trans hv
      exact Claims.lb_advance hs' inFlight' hi known hu clear
    · obtain ⟨hload, hamo⟩ := not_or.1 hk
      by_cases hr : kindOf i = .refused
      · cases (exec_refused hr).symm.trans hv
        cases hu
      · cases (exec_load_other (s := { s with stage := .load t }) rfl hload hamo hr).symm.trans hv
        exact hs' clear

end

end Sys2Proof.Machine
end

section
/-! PROOFS. The execute stage does what sequential execution does (40_cycle_issue_rename.md R135). -/

namespace Sys2Proof.Machine

section

variable {p : Stretch} {s u : State}

/-- The step of a pool. -/
theorem Claims.pool_step {es : List RsEntry} (hlat : 1 ≤ p.cfg.cacheLat) (hr : s.status = .running)
    (hs : Delivering [] s ∧ Claims p s) (hes : ∀ e ∈ es, InPool s e)
    (hx : runEntries .execute (poolWork es) s = .next u) :
    Goes (fun v => Delivering [] v ∧ Claims p v) (fun _ => True) u := by
  obtain ⟨delivering, claims⟩ := hs
  refine (runEntries_induction (P := fun v => OpsKnown (poolWork es) v ∧ Delivering [] v ∧ Claims p v)
    (fun e he v w hvr ⟨known, hv, hclaims⟩ hx => ⟨fun hw => ?_, fun _ => trivial⟩) hr
    ⟨delivering.inFlight.poolWork_known hes, delivering, claims⟩ hx).imp And.right
  obtain ⟨hdel, hevolves⟩ := (execAt_execute_sound hv hvr (known e he) hx).1 hw
  exact ⟨known.evolve hevolves, hdel, hclaims.execute_visit hv.inFlight (hclaims.cfg ▸ hlat) (known e he) hx hw⟩

/-- The step of the load buffer. -/
theorem Claims.load_buffer_step (hr : s.status = .running) (hs : Delivering [] s ∧ Claims p s) (hx : lbStep s = .next u) :
    Goes (fun v => NoHazard v → Claims p v) (fun _ => True) u := by
  obtain ⟨delivering, claims⟩ := hs
  refine (runEntries_induction (P := fun v => OpsKnown (s.lb.map fun l => (l.owner, l.ins.op)) v ∧ Delivering [] v ∧
      (NoHazard v → Claims p v))
    (fun e he v w hvr ⟨known, hv, hclaims⟩ hx => ⟨fun hw => ?_, fun _ => trivial⟩) hr
    ⟨delivering.inFlight.lbWork_known, delivering, fun _ => claims⟩ hx).imp fun h => h.2.2
  obtain ⟨hdel, hevolves⟩ := (execAt_load_sound hv hvr hx).1 hw
  exact ⟨known.evolve hevolves, hdel, Claims.load_buffer_visit hclaims hv.inFlight (known e he) hx hw⟩

/-- The execute stage. -/
theorem Claims.executeStage (hs : Claims p s) (delivering : Delivering [] s) (hlat : 1 ≤ p.cfg.cacheLat)
    (hr : s.status = .running) (hx : executeStage s = .next u) :
    Goes (fun v => NoHazard v → Claims p v) (fun _ => True) u :=
  executeStage_goes (fun _ ha => pool_step hlat hr ⟨delivering, hs⟩ (fun _ => .inl) ha)
    (fun _ _ har ha hx => pool_step hlat har ha (fun _ he => .inr (.inl he)) hx)
    (fun _ _ hbr hb hx => pool_step hlat hbr hb agu_inPool hx)
    (fun _ _ hcr hc hx => load_buffer_step hcr hc hx) hx

end

end Sys2Proof.Machine
end

section
/-! PROOFS. Only the commit stage lets a run exit (60_exceptions.md R410, R411). -/

namespace Sys2Proof.Machine

/-- The run has not exited. -/
def NotExited (s : State) : Prop := ∀ code, s.status ≠ .exited code

section

variable {s u v : State} {o : Op} {t : Tag}

theorem NotExited.of_running (h : s.status = .running) : NotExited s := fun code hc => by cases h.symm.trans hc

theorem NotExited.raise (s : State) (f : Fault) : NotExited (raise f s) := fun _ h => by cases h

theorem mdAdvance_notExited (hs : NotExited s) (lat : Nat) (f : Word → Word → Option Word) (op : DivOp) (t : Tag) :
    NotExited (mdAdvance lat f op t s) := by
  unfold mdAdvance
  split
  · exact hs
  · dsimp only
    split
    · split
      · exact hs
      · exact .raise _ _
    · exact hs

theorem aguLoad_notExited (hs : NotExited s) (t : Tag) : NotExited (aguLoad t s) := by
  unfold aguLoad
  split <;> exact hs

theorem aguStore_notExited (hs : NotExited s) (t : Tag) : NotExited (aguStore t s) := by
  unfold aguStore
  split
  · exact hs
  · split
    · exact .raise s _
    · exact hs

theorem aguAmo_notExited (hs : NotExited s) (t : Tag) : NotExited (aguAmo t s) := by
  unfold aguAmo
  split
  · exact hs
  · split
    · exact .raise s _
    · exact hs

theorem aguLoadReserved_notExited (hs : NotExited s) (t : Tag) : NotExited (aguLoadReserved t s) := by
  unfold aguLoadReserved
  split
  · exact hs
  · split
    · exact .raise s _
    · exact hs

theorem ExecuteMove.notExited (m : ExecuteMove o t s u) (hs : NotExited s) : NotExited u := by
  cases m with
  | alu => exact hs
  | md lat f op => exact mdAdvance_notExited hs lat f op t
  | load => exact aguLoad_notExited hs t
  | store => exact aguStore_notExited hs t
  | amo => exact aguAmo_notExited hs t
  | loadReserved => exact aguLoadReserved_notExited hs t
  | refused => exact .raise s _

theorem lbProceed_notExited (wl : Width) {fin : LbEntry → Word → State → State}
    (hfin : ∀ l v u, NotExited u → NotExited (fin l v u)) (l : LbEntry) (hs : NotExited s) :
    NotExited (lbProceed wl fin l s) := by
  unfold lbProceed
  dsimp only
  split
  · split
    · exact hfin _ _ _ hs
    · split
      · exact .raise _ _
      · exact hfin _ _ _ hs
  · exact hs

theorem lbAdvance_notExited (wl : Width) {fin : LbEntry → Word → State → State}
    (hfin : ∀ l v u, NotExited u → NotExited (fin l v u)) (t : Tag) (hs : NotExited s) :
    NotExited (lbAdvance wl fin t s) := by
  unfold lbAdvance
  split
  · exact hs
  · split
    · exact lbProceed_notExited wl hfin _ hs
    · split
      · exact hs
      · exact lbProceed_notExited wl hfin _ hs
      · exact lbProceed_notExited wl hfin _ hs
      · exact .raise _ _

theorem finishAmo_notExited (result new : Word → Word → Word) (l : LbEntry) (old : Word) (hs : NotExited s) :
    NotExited (finishAmo result new l old s) := by
  unfold finishAmo
  dsimp only
  split
  · exact .raise _ _
  · exact hs

theorem LoadMove.notExited (m : LoadMove o t s u) (hs : NotExited s) : NotExited u := by
  cases m with
  | load w sign => exact lbAdvance_notExited w (fin := finishLoad w sign) (fun _ _ _ h => h) t hs
  | amo result new => exact lbAdvance_notExited .word (fun l v _ => finishAmo_notExited result new l v) t hs
  | other => exact hs
  | refused => exact .raise s _

theorem runEntries_notExited {stageOf : Tag → Stage} {es : List (Tag × Op)}
    (visit : ∀ t o s u, NotExited s → execAt (stageOf t) o s = .next u → NotExited u) (hr : s.status = .running)
    (h : runEntries stageOf es s = .next u) : NotExited u :=
  (runEntries_induction (P := NotExited) (fun _ _ _ _ _ hv hx => .of_both (visit _ _ _ _ hv hx)) hr (.of_running hr) h).both

theorem executeStage_notExited (hr : s.status = .running) (h : executeStage s = .next u) : NotExited u := by
  have execute (t : Tag) (o : Op) (s u : State) (hs : NotExited s) (h : execAt (.execute t) o s = .next u) :
      NotExited u := by
    obtain ⟨v, hv, rfl⟩ := execAt_inv h
    exact (execOp_execute rfl hv).notExited hs
  have load (t : Tag) (o : Op) (s u : State) (hs : NotExited s) (h : execAt (.load t) o s = .next u) : NotExited u := by
    obtain ⟨v, hv, rfl⟩ := execAt_inv h
    exact (execOp_load rfl hv).notExited hs
  refine (executeStage_induction (P := NotExited) (fun v w hvr _ hx => .of_both ?_) hr (.of_running hr) h).both
  rcases hx with hx | hx | hx | hx
  · exact runEntries_notExited execute hvr hx
  · exact runEntries_notExited execute hvr hx
  · exact runEntries_notExited execute hvr hx
  · exact runEntries_notExited load hvr hx

theorem fetchStage_notExited (hs : NotExited s) (h : fetchStage s = .next u) : NotExited u := by
  rcases fetchStage_cases h with ⟨_, rfl⟩ | ⟨_, _, _, rfl⟩ | ⟨_, _, _, _, _, rfl⟩ | ⟨_, _, _, rfl⟩ | ⟨_, _, m, rfl⟩
  · exact hs
  · exact .raise _ _
  · exact hs
  · exact .raise _ _
  · cases m with
    | enqueue => exact hs
    | jalr => exact hs
    | refused => exact NotExited.raise _ _

end

end Sys2Proof.Machine
end

section
/-! PROOFS. What is in flight in front of issue, and the registers, for sequential execution; the rename reads
(40_cycle_issue_rename.md R141; 44_branch_fetch.md R325, R328). -/

namespace Sys2Proof.Machine

/-! ### The front end's claims -/

/-- What the core has for the register `r` stands for `w`: the register itself, or what its producer writes. -/
structure RegHolds (p : Stretch) (s : State) (r : Reg) (w : Word) : Prop where
  idle : (rstAt s r).busy = false → readReg s r = w
  produced : (rstAt s r).busy = true → p.value (rstAt s r).tag = some w

/-- The records of the reorder buffer, with their tags. -/
def issuedRecords (s : State) : List (Tag × Decoded) := s.rob.map fun h => (h.tag, h.ins)

/-- Where the JALR that fetch waits for stands: nowhere, last in iq, or last in the reorder buffer behind an empty iq
(44_branch_fetch.md R325, R328). -/
inductive JalrPlace (s : State) : Prop
  | free (hw : s.jalrWait = .none) (hiq : ∀ r ∈ s.iq, isJalrOp r.op = false)
  | queued (before : List Decoded) (r : Decoded) (hw : s.jalrWait = .unissued) (hiq : s.iq = before ++ [r])
      (hj : isJalrOp r.op = true) (hbefore : ∀ x ∈ before, isJalrOp x.op = false)
  | issued (t : Tag) (older : List (Tag × Decoded)) (r : Decoded) (hw : s.jalrWait = .waiting t) (hiq : s.iq = [])
      (hrob : issuedRecords s = older ++ [(t, r)]) (hj : isJalrOp r.op = true)

/-- The records in flight are those of sequential execution, fetch goes on behind them, and the registers stand for those
before the next instruction to issue. -/
structure Front (p : Stretch) (s : State) : Prop where
  genuine : ∀ x ∈ p.records, Genuine p.cfg p.start.mem x.2
  path : ∀ x ∈ p.records, ∀ q, p.before x.1 = some q → q.pc = x.2.pc
  stop : s.jalrWait = .none → ∀ q, p.stop = some q → q.pc = s.pc
  regs : p.start.regs = s.regs
  reads : ∀ r, r ≠ 0 → ∀ q, p.before s.nextTag = some q → RegHolds p s r (q.read r)
  claimed : ∀ x ∈ issuedRecords s, destOf x.2 ≠ 0 →
    (rstAt s (destOf x.2)).busy = true ∧ x.1 ≤ (rstAt s (destOf x.2)).tag
  jalr : JalrPlace s

/-- The state of the core and the stretch `p` of sequential execution belong together. -/
structure Faithful (p : Stretch) (s : State) : Prop extends Claims p s, Front p s

section

variable {p : Stretch} {q : InOrder} {s u : State} {h : RobEntry} {r : Reg} {t : Tag} {w : Word}

/-- What the back end changes does not touch the front end's claims. -/
theorem Front.congr (hs : Front p s) (hregs : u.regs = s.regs) (hrst : u.rst = s.rst) (hiq : u.iq = s.iq)
    (hpc : u.pc = s.pc) (hw : u.jalrWait = s.jalrWait) (hnext : u.nextTag = s.nextTag)
    (hrob : issuedRecords u = issuedRecords s) : Front p u where
  genuine := hs.genuine
  path := hs.path
  stop hn q hq := (hs.stop (hw ▸ hn) q hq).trans hpc.symm
  regs := hs.regs.trans hregs.symm
  reads r hr q hq := by
    obtain ⟨idle, produced⟩ := hs.reads r hr q (hnext ▸ hq)
    refine ⟨fun hb => ?_, fun hb => ?_⟩
    · rw [readReg, hregs]
      exact idle (rstAt_congr hrst r ▸ hb)
    · rw [rstAt_congr hrst r] at hb ⊢
      exact produced hb
  claimed x hx hd := by
    rw [rstAt_congr hrst]
    exact hs.claimed x (hrob ▸ hx) hd
  jalr := by
    cases hs.jalr with
    | free hn hi => exact .free (hw.trans hn) (hiq ▸ hi)
    | queued before r hn hi hj hb => exact .queued before r (hw.trans hn) (hiq.trans hi) hj hb
    | issued t older r hn hi hr hj => exact .issued t older r (hw.trans hn) (hiq.trans hi) (hrob.trans hr) hj

/-- Two states whose records in flight are the same, with the same iq and next tag. -/
theorem issuedRecords_of_flight (hflight : flight u = flight s) (hiq : u.iq = s.iq) (hnext : u.nextTag = s.nextTag) :
    issuedRecords u = issuedRecords s := by
  rw [flight, flight, hiq, hnext] at hflight
  exact List.append_cancel_right hflight

/-- The back end's stages hand on the front end's claims. -/
theorem Faithful.of_backend (hs : Front p s) (old : Claims p s) (new : Claims p u) (hregs : u.regs = s.regs)
    (hrst : u.rst = s.rst) (hiq : u.iq = s.iq) (hpc : u.pc = s.pc) (hw : u.jalrWait = s.jalrWait)
    (hnext : u.nextTag = s.nextTag) : Faithful p u :=
  ⟨new, hs.congr hregs hrst hiq hpc hw hnext
    (issuedRecords_of_flight (new.records.symm.trans old.records) hiq hnext)⟩

/-! ### The rename reads -/

theorem SlotHolds.resolve (v : Word) : SlotHolds p v 0 v := ⟨fun _ => rfl, fun h => absurd rfl h⟩

theorem readReg_eq (hr : r ≠ 0) : readReg s r = s.regs[r.toNat]'r.isLt := if_neg hr

/-- A record that writes is no ECALL. -/
theorem not_syscall_of_follow {c : Config} {d : Decoded} {u : InOrder} (hu : follow c q d = some u) :
    opKind d.op ≠ .syscall := fun h => by cases (follow_syscall h).symm.trans hu

/-- A rename read gives what sequential execution reads. -/
theorem Faithful.renameRead (hs : Faithful p s) (inFlight : InFlight s) {x : Slot} (hx : renameRead s r = .slot x)
    (hq : p.before s.nextTag = some q) : SlotHolds p x.v x.q (q.read r) := by
  by_cases hr : r = 0
  · subst hr
    cases (renameRead_zero s).symm.trans hx
    exact .resolve 0
  obtain ⟨idle, produced⟩ := hs.reads r hr q hq
  cases hb : (rstAt s r).busy with
  | false =>
    cases (renameRead_idle hr hb).symm.trans hx
    rw [← idle hb, readReg_eq hr]
    exact .resolve _
  | true =>
    obtain ⟨_, h, eh, hdest⟩ := inFlight.busy r hb
    rw [renameRead_produced hr hb eh] at hx
    have hvalue := produced hb
    split at hx
    · rename_i hcomplete
      cases hx
      obtain ⟨q', u, hq', hu, hread⟩ := hs.value_spec inFlight eh hvalue
      have hshape := hs.shape h (robAt_mem eh)
      have hd : h.dest ≠ 0 := hdest ▸ hr
      have right := (hs.entry h (robAt_mem eh) q' (by rw [robAt_tag eh]; exact hq')).complete hcomplete
      rw [← hread, right.read (kind_of_dest inFlight eh hshape hd (not_syscall_of_follow hu)) (hshape.dest ▸ hd) hu]
      exact .resolve _
    · cases hx
      have hpos := ((tagsInOrder_iff s).1 inFlight.order).2.1 _ (List.mem_map_of_mem (robAt_mem eh))
      rw [robAt_tag eh] at hpos
      exact ⟨fun h0 => absurd h0 (Nat.one_le_iff_ne_zero.1 hpos.1), fun _ => hvalue⟩

theorem Faithful.readOperand (hs : Faithful p s) (inFlight : InFlight s) {o : Operand} {pc : Word} {x : Slot}
    (hx : readOperand s pc o = .slot x) (hq : p.before s.nextTag = some q) :
    SlotHolds p x.v x.q (operandValue q.read pc o) := by
  cases o with
  | reg r => exact hs.renameRead inFlight hx hq
  | const v =>
    cases hx
    exact .resolve _
  | pc =>
    cases hx
    exact .resolve _

theorem readOperands_inv {pc : Word} {a b : Operand} {data : Option Reg} {j k d : Slot}
    (h : readOperands s pc a b data = .slots j k d) : readOperand s pc a = .slot j ∧ readOperand s pc b = .slot k ∧
      (data = none → d = ⟨0, 0⟩) ∧ ∀ r, data = some r → Machine.renameRead s r = .slot d := by
  unfold readOperands at h
  split at h
  · cases h
  · rename_i hj
    split at h
    · cases h
    · rename_i hk
      split at h
      · cases h
        exact ⟨hj, hk, fun _ => rfl, fun r hr => nomatch hr⟩
      · rename_i r
        split at h
        · cases h
        · rename_i hd
          cases h
          refine ⟨hj, hk, fun hr => (nomatch hr), fun x hx => ?_⟩
          cases hx
          exact hd

theorem Faithful.readData (hs : Faithful p s) (inFlight : InFlight s) {data : Option Reg} {d : Slot}
    (hnone : data = none → d = ⟨0, 0⟩) (hsome : ∀ r, data = some r → Machine.renameRead s r = .slot d)
    (hq : p.before s.nextTag = some q) : SlotHolds p d.v d.q (dataValue q.read data) := by
  cases data with
  | none =>
    rw [hnone rfl]
    exact .resolve 0
  | some r => exact hs.renameRead inFlight (hsome r rfl) hq

end

end Sys2Proof.Machine
end

section
/-! PROOFS. The issue stage does what sequential execution does (40_cycle_issue_rename.md R140 to R148). -/

namespace Sys2Proof.Machine

section

variable {p : Stretch} {q : InOrder} {s u : State} {r : Decoded} {waiting : List Decoded} {form : IssueForm}
  {j k d : Slot} {x : Reg} {c : Config}

/-! ### The records -/

theorem issuedRecords_issued : issuedRecords (issued form r waiting j k d s) = issuedRecords s ++ [(s.nextTag, r)] := by
  rw [issuedRecords, issuedRecords]
  exact List.map_append

theorem flight_next (hiq : s.iq = r :: waiting) :
    flight s = issuedRecords s ++ (s.nextTag, r) :: numbered (s.nextTag + 1) waiting := by
  rw [flight, hiq, numbered]
  rfl

theorem flight_issued (hiq : s.iq = r :: waiting) : flight (issued form r waiting j k d s) = flight s := by
  rw [flight_next hiq]
  refine (congrArg (· ++ numbered (s.nextTag + 1) waiting)
    (issuedRecords_issued (s := s) (form := form) (r := r) (waiting := waiting) (j := j) (k := k) (d := d))).trans ?_
  simp

/-- The next instruction writes what sequential execution writes. -/
theorem Claims.value_next (hs : Claims p s) (ho : TagsInOrder s) (hiq : s.iq = r :: waiting) :
    p.value s.nextTag = (p.before s.nextTag).bind fun q => (follow p.cfg q r).map fun u => u.read (destOf r) :=
  Stretch.value_split (hs.records.trans (flight_next hiq)) (nextTag_not_rob ho)

theorem Claims.before_issued (hs : Claims p s) (ho : TagsInOrder s) (hu : TagsInOrder (issued form r waiting j k d s))
    (hiq : s.iq = r :: waiting) :
    p.before (s.nextTag + 1) = (p.before s.nextTag).bind fun q => follow p.cfg q r := by
  have later := before_next hu (hs.records.trans (flight_issued (form := form) (j := j) (k := k) (d := d) hiq).symm)
  rw [before_next ho hs.records]
  refine later.trans ?_
  rw [show (issued form r waiting j k d s).rob.map (·.ins) = s.rob.map (·.ins) ++ [r] from List.map_append, followAll_append]
  congr 1
  funext q
  exact followAll_singleton _ _ _

/-! ### The new entries -/

/-- Only a store waits for data. -/
theorem store_of_data (hform : issueTableOp r.op = some form) (hdata : form.data ≠ none) : ∃ w, opKind r.op = .store w := by
  cases hop : r.op with
  | nop =>
    rw [hop] at hform
    cases hform
    exact absurd rfl hdata
  | ins i =>
    rw [hop] at hform
    replace hform : issueTable i = some form := hform
    cases i <;> cases hform <;> first
      | exact absurd rfl hdata
      | exact ⟨_, rfl⟩

/-- What an issue hands out is what sequential execution has. -/
structure Handed (p : Stretch) (s : State) (r : Decoded) (form : IssueForm) (j k d : Slot) : Prop where
  same : formOf r = form
  table : issueTableOp r.op = some form
  noData : form.data = none → d = ⟨0, 0⟩
  pc : ∀ q, p.before s.nextTag = some q → q.pc = r.pc
  left : ∀ q, p.before s.nextTag = some q → SlotHolds p j.v j.q (operandJ r q)
  right : ∀ q, p.before s.nextTag = some q → SlotHolds p k.v k.q (operandK r q)
  const : ∀ v, form.k = .const v → k.q = 0
  data : ∀ q, p.before s.nextTag = some q → SlotHolds p d.v d.q (dataOf r q)

theorem Faithful.handed (hs : Faithful p s) (inFlight : InFlight s) (hiq : s.iq = r :: waiting)
    (hform : issueTableOp r.op = some form)
    (hreads : readOperands s r.pc form.j form.k form.data = .slots j k d) : Handed p s r form j k d := by
  have hf := formOf_eq hform
  obtain ⟨hj, hk, hnone, hsome⟩ := readOperands_inv hreads
  refine ⟨hf, hform, hnone, fun q hq => ?_, fun q hq => ?_, fun q hq => ?_, fun v hv => ?_, fun q hq => ?_⟩
  · exact hs.path (s.nextTag, r) (by rw [hs.records, flight_next hiq]; simp) q hq
  · rw [operandJ, hf]
    exact hs.readOperand inFlight hj hq
  · rw [operandK, hf]
    exact hs.readOperand inFlight hk hq
  · rw [hv] at hk
    cases hk
    rfl
  · rw [dataOf, hf]
    exact hs.readData inFlight hnone hsome hq

theorem Handed.newEntry (g : Handed p s r form j k d) (hq : p.before s.nextTag = some q) :
    EntryHolds p q (newRobEntry form r s.nextTag d) where
  pc := g.pc q hq
  complete h := nomatch h
  syscall hk hv := by
    obtain ⟨hdata, _⟩ := Bool.and_eq_true_iff.1 hv
    obtain ⟨w, hw⟩ := store_of_data g.table (Option.isSome_iff_ne_none.1 hdata)
    exact absurd (hk.symm.trans hw) (by simp)
  addr h := nomatch h
  data w _ hv := (g.data q hq).resolved (beq_iff_eq.1 (Bool.and_eq_true_iff.1 hv).2)
  queue h0 := (g.data q hq).awaited h0
  amo hk hv := by
    obtain ⟨hdata, _⟩ := Bool.and_eq_true_iff.1 hv
    obtain ⟨w, hw⟩ := store_of_data g.table (Option.isSome_iff_ne_none.1 hdata)
    exact absurd (hk.symm.trans hw) (by simp)

theorem Handed.shape (g : Handed p s r form j k d) : EntryShape (newRobEntry form r s.nextTag d) where
  dest := (congrArg IssueForm.dest g.same).symm
  form := g.table.trans (congrArg some g.same.symm)
  queued h0 := by
    refine store_of_data g.table fun hnone => h0 ?_
    rw [g.noData hnone]
    rfl

theorem Handed.operands (g : Handed p s r form j k d) (hq : p.before s.nextTag = some q) :
    OperandsHold p q (newRsEntry form r s.nextTag j k) where
  j := g.left q hq
  k := g.right q hq
  a := (congrArg IssueForm.a g.same).symm
  const v hv := g.const v (congrArg IssueForm.k g.same ▸ hv)

theorem Claims.issued (hs : Claims p s) (hwf : s.cfg.wf) (hiq : s.iq = r :: waiting) (g : Handed p s r form j k d) :
    Claims p (issued form r waiting j k d s) where
  cfg := hs.cfg
  mem := hs.mem
  records := hs.records.trans (flight_issued hiq).symm
  wf := hs.wf
  shape h hh := by
    rcases List.mem_append.1 hh with hh | hh
    · exact hs.shape h hh
    · cases List.mem_singleton.1 hh
      exact g.shape
  entry h hh q hq := by
    rcases List.mem_append.1 hh with hh | hh
    · exact hs.entry h hh q hq
    · cases List.mem_singleton.1 hh
      exact g.newEntry hq
  operands e he q hq := by
    rcases inPool_issued he with he | rfl
    · exact hs.operands e he q hq
    · exact g.operands hq
  alu e he hp := by
    rcases mem_issued he with he | rfl
    · exact hs.alu e he hp
    · exact absurd rfl hp
  md e he hp := by
    rcases mem_issued he with he | rfl
    · exact hs.md e he hp
    · exact absurd (latency_pos hwf _) (Nat.not_lt.2 hp)
  agu e he hk hp := by
    rcases mem_issued he with he | rfl
    · exact hs.agu e he hk hp
    · exact absurd rfl hp
  lb := hs.lb

/-! ### The registers -/

theorem rstAt_issued : rstAt (Machine.issued form r waiting j k d s) x =
    if x = form.dest ∧ x ≠ 0 then ⟨true, s.nextTag⟩ else rstAt s x := by
  show (rstClaimed s form.dest s.nextTag)[x.toNat]'x.isLt = _
  rcases rstClaimed_busy (s := s) (r := x) (d := form.dest) (t := s.nextTag) with ⟨hx, hd, he⟩ | he
  · rw [he, if_pos ⟨hx, hx ▸ hd⟩]
  · by_cases hx : x = form.dest ∧ x ≠ 0
    · rw [if_pos hx, ← hx.1, rstClaimed, if_neg hx.2]
      exact Vector.getElem_set_self _
    · rw [he, if_neg hx]

/-- The registers stand for those behind the instruction that has issued. -/
theorem Faithful.reads_issued (hs : Faithful p s) (ho : TagsInOrder s)
    (hu : TagsInOrder (Machine.issued form r waiting j k d s)) (hiq : s.iq = r :: waiting) (g : Handed p s r form j k d) (hx : x ≠ 0)
    (hq : p.before (s.nextTag + 1) = some q) : RegHolds p (Machine.issued form r waiting j k d s) x (q.read x) := by
  rw [hs.before_issued ho hu hiq] at hq
  obtain ⟨q', hq', hstep⟩ := Option.bind_eq_some_iff.1 hq
  by_cases hdest : x = form.dest
  · have claimed : rstAt (Machine.issued form r waiting j k d s) x = ⟨true, s.nextTag⟩ := by
      rw [rstAt_issued, if_pos ⟨hdest, hx⟩]
    refine ⟨fun hb => ?_, fun _ => ?_⟩
    · rw [claimed] at hb
      cases hb
    · rw [claimed, hs.value_next ho hiq, hq']
      have hd : destOf r = x := (congrArg IssueForm.dest g.same).trans hdest.symm
      simp [hstep, hd]
  · have kept : rstAt (Machine.issued form r waiting j k d s) x = rstAt s x := by
      rw [rstAt_issued, if_neg fun h => hdest h.1]
    have effect := follow_effect (g.table.trans (congrArg some g.same.symm)) hstep
    have hd : x ≠ destOf r := fun h => hdest (h.trans (congrArg IssueForm.dest g.same))
    rw [effect.read_other hd]
    obtain ⟨idle, produced⟩ := hs.reads x hx q' hq'
    exact ⟨fun hb => idle (kept ▸ hb), fun hb => by rw [kept] at hb ⊢; exact produced hb⟩

theorem Faithful.claimed_issued (hs : Faithful p s) (ho : TagsInOrder s) (g : Handed p s r form j k d)
    {y : Tag × Decoded} (hy : y ∈ issuedRecords (Machine.issued form r waiting j k d s)) (hd : destOf y.2 ≠ 0) :
    (rstAt (Machine.issued form r waiting j k d s) (destOf y.2)).busy = true ∧
      y.1 ≤ (rstAt (Machine.issued form r waiting j k d s) (destOf y.2)).tag := by
  rw [issuedRecords_issued] at hy
  rw [rstAt_issued]
  rcases List.mem_append.1 hy with hy | hy
  · split
    · refine ⟨rfl, ?_⟩
      obtain ⟨h, hh, rfl⟩ := List.mem_map.1 hy
      exact Nat.le_of_lt (((tagsInOrder_iff s).1 ho).2.1 _ (List.mem_map_of_mem hh)).2
    · exact hs.claimed y hy hd
  · cases List.mem_singleton.1 hy
    rw [if_pos ⟨congrArg IssueForm.dest g.same, hd⟩]
    exact ⟨rfl, Nat.le_refl _⟩

/-! ### The stage -/

/-- The fetch stall behind an issue. -/
theorem JalrPlace.issue (hs : JalrPlace s) (hiq : s.iq = r :: waiting) (hu : u.iq = waiting)
    (hrob : issuedRecords u = issuedRecords s ++ [(s.nextTag, r)])
    (hw : u.jalrWait = if isJalrOp r.op = true ∧ s.jalrWait = .unissued then .waiting s.nextTag else s.jalrWait) :
    JalrPlace u := by
  cases hs with
  | free hn hi =>
    rw [hiq] at hi
    refine .free ?_ fun x hx => hi x (List.mem_cons_of_mem _ (hu ▸ hx))
    rw [hw, if_neg fun h => (by cases hn.symm.trans h.2), hn]
  | queued before x hn hi hj hb =>
    rw [hiq] at hi
    cases before with
    | nil =>
      cases hi
      exact .issued s.nextTag _ r (by rw [hw, if_pos ⟨hj, hn⟩]) hu hrob hj
    | cons y before =>
      cases hi
      refine .queued before x ?_ hu hj fun z hz => hb z (List.mem_cons_of_mem _ hz)
      rw [hw, if_neg fun h => (by cases (hb r List.mem_cons_self).symm.trans h.1), hn]
  | issued t older x hn hi => cases hi.symm.trans hiq

theorem Faithful.issueStage (hs : Faithful p s) (serving : Serving c s) (hwf : c.wf) (hr : s.status = .running)
    (hx : issueStage s = .next u) (hu : u.status = .running) : Faithful p u := by
  cases hiq : s.iq with
  | nil =>
    rw [Machine.issueStage, hiq] at hx
    cases hx
    exact hs
  | cons r waiting =>
    have inFlight := serving.delivering.inFlight
    obtain ⟨form, hform⟩ := serving.forms r (hiq ▸ List.mem_cons_self)
    obtain ⟨j, k, d, hreads, _, _, _, he⟩ := issueStage_form inFlight hr hiq hform
    have order : TagsInOrder u := ((serving.delivering.after_issueStage hr hx).1 hu).inFlight.order
    cases he.symm.trans hx
    replace order : TagsInOrder (Machine.issued form r waiting j k d s) := order
    have g := hs.handed inFlight hiq hform hreads
    refine ⟨(hs.toClaims.issued (serving.cfg ▸ hwf) hiq g).shrink rfl rfl rfl rfl rfl (fun _ => id) (fun _ => id)
      (fun _ => id) fun _ => id, hs.genuine, hs.path, fun hn => ?_, hs.regs,
      fun x hx0 q hq => ?_, fun y hy hd => hs.claimed_issued (waiting := waiting) inFlight.order g hy hd,
      hs.jalr.issue hiq rfl (issuedRecords_issued (j := j) (k := k) (waiting := waiting)) rfl⟩
    · have none : s.jalrWait = .none := by
        by_cases hwait : isJalrOp r.op = true ∧ s.jalrWait = .unissued
        · simp [hwait] at hn
        · rwa [if_neg hwait] at hn
      exact hs.stop none
    · obtain ⟨idle, produced⟩ := hs.reads_issued inFlight.order order hiq g hx0 hq
      exact ⟨idle, produced⟩

end

end Sys2Proof.Machine
end

section
/-! PROOFS. The fetch stage follows sequential execution along the predicted path (44_branch_fetch.md R320 to R328). -/

namespace Sys2Proof.Machine

section

variable {p p' : Stretch} {q : InOrder} {s u : State} {r : Decoded} {t : Tag} {w : Word} {i : Instr} {next pc : Word}
  {ms : List CdbMsg} {c : Config}

/-! ### From one stretch to another -/

theorem SlotHolds.transport {v : Word} (hs : SlotHolds p v t w)
    (value : t ≠ 0 → ∀ w, p.value t = some w → p'.value t = some w) : SlotHolds p' v t w :=
  ⟨hs.resolved, fun h => value h w (hs.awaited h)⟩

/-- The claims for a state with fewer entries and for another stretch, where the two agree on the tags in flight. -/
theorem Claims.transport (hs : Claims p s) (inFlight : InFlight u) (announced : Announced ms u) (hcfg : p'.cfg = p.cfg)
    (hucfg : u.cfg = s.cfg) (hmem : p'.start.mem = u.mem) (hrecords : p'.records = flight u) (hwf : Memory.wf u.mem)
    (hrob : ∀ h ∈ u.rob, h ∈ s.rob) (halu : ∀ e ∈ u.rsAlu, e ∈ s.rsAlu) (hmd : ∀ e ∈ u.rsMd, e ∈ s.rsMd)
    (hagu : ∀ e ∈ u.rsAgu, e ∈ s.rsAgu) (hlb : ∀ l ∈ u.lb, l ∈ s.lb)
    (before : ∀ t ∈ robTags u, ∀ q, p'.before t = some q → p.before t = some q)
    (value : ∀ t ∈ robTags u, ∀ w, p.value t = some w → p'.value t = some w)
    (unchanged : ∀ l ∈ u.lb, ∀ q, LbHolds p q l → l.cleared = true → l.fwd = none →
      ∀ x ∈ p'.records, x.1 ≤ l.owner → ∀ q', p'.before x.1 = some q' →
      memRead q'.mem l.addr (accessBytes l.ins.op) = memRead p'.start.mem l.addr (accessBytes l.ins.op)) :
    Claims p' u := by
  have awaited {v w : Word} {t : Tag} (hslot : SlotHolds p v t w) (ha : Awaited u t) : SlotHolds p' v t w :=
    hslot.transport fun h0 => by
      obtain ⟨h, e, _⟩ := announced t ha h0
      exact value t (mem_robTags_iff.2 ⟨h, e⟩)
  have pool {e : RsEntry} (he : InPool u e) {q : InOrder} (hq : p'.before e.dest = some q) :
      InPool s e ∧ p.before e.dest = some q := by
    obtain ⟨h, eh, _⟩ := inFlight.pool_owner he
    exact ⟨he.imp (halu e) (Or.imp (hmd e) (hagu e)), before _ (mem_robTags_iff.2 ⟨h, eh⟩) q hq⟩
  refine ⟨hcfg.trans (hs.cfg.trans hucfg.symm), hmem, hrecords, hwf, fun h hh => hs.shape h (hrob h hh), fun h hh q hq => ?_,
    fun e he q hq => ?_, fun e he hp q hq => ?_, fun e he hp q hq => ?_, fun e he hk hp q hq => ?_, fun l hl q hq => ?_⟩
  · obtain ⟨hpc, hcomplete, hsys, haddr, hdata, hqueue, hamo⟩ :=
      hs.entry h (hrob h hh) q (before _ (List.mem_map_of_mem hh) q hq)
    rw [← hcfg] at hcomplete hsys hamo
    refine ⟨hpc, hcomplete, hsys, haddr, hdata, fun h0 => ?_, hamo⟩
    exact (awaited ⟨fun h => absurd h h0, fun _ => hqueue h0⟩
      (.inr ⟨_, h, robAt_of_mem inFlight.order hh, rfl⟩) : SlotHolds p' 0 _ _).awaited h0
  · obtain ⟨hold, hq⟩ := pool he hq
    obtain ⟨hj, hk, ha, hconst⟩ := hs.operands e hold q hq
    exact ⟨awaited hj (.inl ⟨e, he, .inl rfl⟩), awaited hk (.inl ⟨e, he, .inr rfl⟩), ha, hconst⟩
  · exact hcfg ▸ hs.alu e (halu e he) hp q (pool (.inl he) hq).2
  · exact hcfg ▸ hs.md e (hmd e he) (hucfg ▸ hp) q (pool (.inr (.inl he)) hq).2
  · exact hcfg ▸ hs.agu e (hagu e he) hk hp q (pool (agu_inPool e he) hq).2
  · obtain ⟨h, eh, _⟩ := inFlight.lb_owner hl
    have holds := hs.lb l (hlb l hl) q (before _ (mem_robTags_iff.2 ⟨h, eh⟩) q hq)
    have hforwarded := holds.forwarded
    have hdone := holds.done
    rw [← hcfg] at hforwarded hdone
    exact ⟨holds.addr, holds.src, hforwarded, unchanged l hl q holds, hdone⟩

/-! ### A record more -/

/-- The stretch with the record `r` of the tag `t` behind it. -/
def Stretch.add (p : Stretch) (t : Tag) (r : Decoded) : Stretch := ⟨p.cfg, p.start, p.records ++ [(t, r)]⟩

theorem Stretch.value_mem (h : p.value t = some w) : t ∈ p.records.map (·.1) := by
  obtain ⟨q, _, h⟩ := Option.bind_eq_some_iff.1 h
  obtain ⟨x, hx, _⟩ := Option.bind_eq_some_iff.1 h
  exact List.mem_map.2 ⟨x, List.mem_of_find?_eq_some hx, by simpa using List.find?_some hx⟩

theorem Stretch.value_add {t' : Tag} (h : p.value t = some w) : (p.add t' r).value t = some w :=
  (Stretch.value_appended t' (Stretch.value_mem h)).trans h

/-- The tag that the next fetched record is to have. -/
def fetchTag (s : State) : Tag := s.nextTag + s.iq.length

theorem flight_fetched {s u : State} (hrob : u.rob = s.rob) (hiq : u.iq = s.iq ++ [r]) (hnext : u.nextTag = s.nextTag) :
    flight u = flight s ++ [(fetchTag s, r)] := by
  rw [flight, flight, hrob, hiq, hnext, numbered_append, List.append_assoc]
  rfl

theorem lt_fetchTag (ho : TagsInOrder s) {x : Tag × Decoded} (hx : x ∈ flight s) : x.1 < fetchTag s := by
  rcases List.mem_append.1 hx with hx | hx
  · obtain ⟨h, hh, rfl⟩ := List.mem_map.1 hx
    exact Nat.lt_of_lt_of_le (((tagsInOrder_iff s).1 ho).2.1 _ (List.mem_map_of_mem hh)).2 (Nat.le_add_right _ _)
  · exact (le_of_mem_numbered hx).2

theorem fetchTag_absent (ho : TagsInOrder s) (hp : p.records = flight s) : fetchTag s ∉ p.records.map (·.1) := by
  intro hm
  obtain ⟨x, hx, he⟩ := List.mem_map.1 hm
  exact Nat.lt_irrefl _ (he ▸ lt_fetchTag ho (hp ▸ hx))

/-- The next tag is a record's, or the fetched record's. -/
theorem nextTag_placed (hp : p.records = flight s) : s.nextTag ∈ p.records.map (·.1) ∨ s.nextTag = fetchTag s := by
  cases hiq : s.iq with
  | nil => exact .inr (by rw [fetchTag, hiq]; rfl)
  | cons r rest =>
    refine .inl (List.mem_map.2 ⟨(s.nextTag, r), ?_, rfl⟩)
    rw [hp, flight, hiq, numbered]
    simp

theorem robTag_record (hp : p.records = flight s) (ht : t ∈ robTags s) : t ∈ p.records.map (·.1) := by
  obtain ⟨h, hh, rfl⟩ := List.mem_map.1 ht
  exact List.mem_map.2 ⟨(h.tag, h.ins), by rw [hp, flight]; exact List.mem_append_left _ (List.mem_map_of_mem hh), rfl⟩

/-! ### Where fetch goes on -/

theorem Fetched.record (f : Fetched s i r next) : r.pc = s.pc ∧ r.op = recordOp i := by
  cases f with
  | branch taken imm hshape => exact ⟨rfl, (recordOp_of_not_suppressed (by cases i <;> cases hshape <;> simp [kindOf])).symm⟩
  | suppressed hk => exact ⟨rfl, (if_pos hk).symm⟩
  | jal rd imm hi =>
    subst hi
    exact ⟨rfl, rfl⟩
  | jalr hj =>
    cases i <;> cases hj
    exact ⟨rfl, rfl⟩
  | next _ _ _ hn _ => exact ⟨rfl, (recordOp_of_not_suppressed hn).symm⟩

theorem followingPc_straight (hj : isJal i = false) (hr : isJalr i = false) (q : InOrder) :
    followingPc i q = q.pc + 4 := by
  cases i with
  | jal => cases hj
  | jalr => cases hr
  | _ => rfl

/-- Behind a record that is no JALR fetch goes on where sequential execution does. -/
theorem Fetched.follows (f : Fetched s i r next) (hj : isJalrOp r.op = false) (hpc : q.pc = s.pc) {u : InOrder}
    (hu : follow c q r = some u) : u.pc = next := by
  have plain {i : Instr} (hop : r.op = .ins i) (hb : kindOf i ≠ .branch) : u.pc = followingPc i q := by
    rw [follow_ins hop hb] at hu
    obtain ⟨v, _, rfl⟩ := Option.map_eq_some_iff.1 hu
    rfl
  cases f with
  | branch taken imm hshape =>
    obtain ⟨taken', hshape⟩ := branchShape_offset hshape q.read
    rw [follow_branch rfl hshape] at hu
    split at hu
    · rename_i hpred
      cases hu
      replace hpred : predict s s.pc = taken' := hpred
      rw [hpred, ← hpc]
    · cases hu
  | suppressed hk =>
    cases (follow_nop rfl).symm.trans hu
    rw [← hpc]
  | jal rd imm hi =>
    subst hi
    rw [plain rfl (by simp [kindOf]), ← hpc]
    rfl
  | jalr h => cases h.symm.trans hj
  | next hb hjal hjalr =>
    rw [plain rfl hb, ← hpc, followingPc_straight hjal hjalr]

theorem form_jalr (hj : isJalrOp r.op = true) : ∃ v, (formOf r).k = .const v := by
  cases hop : r.op with
  | nop => rw [hop] at hj; cases hj
  | ins i =>
    rw [hop] at hj
    cases i <;> cases hj
    rename_i rd a imm
    exact ⟨imm, congrArg IssueForm.k (formOf_ins hop (form := aluForm (.reg a) (.const imm) rd) rfl)⟩

/-- The JALR's own successor. -/
theorem follow_jalr (hj : isJalrOp r.op = true) {u : InOrder} (hu : follow c q r = some u) :
    u.pc = jalrTarget (operandJ r q) (operandK r q) := by
  cases hop : r.op with
  | nop => rw [hop] at hj; cases hj
  | ins i =>
    rw [hop] at hj
    cases i <;> cases hj
    rename_i rd a imm
    have hf := formOf_ins hop (form := aluForm (.reg a) (.const imm) rd) rfl
    rw [follow_ins hop (by simp [kindOf])] at hu
    obtain ⟨v, _, rfl⟩ := Option.map_eq_some_iff.1 hu
    rw [operandJ, operandK, hf, jalrTarget_eq]
    rfl

/-- Fetch reads where sequential execution goes on. -/
theorem Faithful.fetches_at (hs : Faithful p s) (inFlight : InFlight s) (f : FetchesAt s pc) (hq : p.stop = some q) :
    q.pc = pc := by
  cases f with
  | straight hw => exact hs.stop hw q hq
  | resumed t e hw he hd hqj =>
    cases hs.jalr with
    | free hn => cases hn.symm.trans hw
    | queued before r hn => cases hn.symm.trans hw
    | issued t' older r hn hiq hrob hj =>
      cases hn.symm.trans hw
      have hrecords : p.records = older ++ (t, r) :: [] := by
        rw [hs.records, flight, hiq, numbered, List.append_nil]
        exact hrob
      obtain ⟨g, eg, hins, _⟩ := inFlight.pool_owner (.inl he)
      have hmem : (t, e.ins) ∈ issuedRecords s := by
        rw [issuedRecords]
        exact List.mem_map.2 ⟨g, robAt_mem eg, Prod.ext ((robAt_tag eg).trans hd) hins⟩
      have tags : ((older ++ [(t, r)]).map (·.1)).Pairwise (· < ·) := by
        have := ((tagsInOrder_iff s).1 inFlight.order).1
        rw [← hrob, issuedRecords, List.map_map]
        exact this
      rw [List.map_append] at tags
      have absent : t ∉ older.map (·.1) := fun hm =>
        Nat.lt_irrefl _ ((List.pairwise_append.1 tags).2.2 _ hm t (by simp))
      have same : e.ins = r := by
        rw [hrob] at hmem
        rcases List.mem_append.1 hmem with hm | hm
        · exact absurd (List.mem_map_of_mem (f := (·.1)) hm) absent
        · exact congrArg Prod.snd (List.mem_singleton.1 hm)
      have hbefore := Stretch.before_split hrecords absent
      rw [Stretch.stop, hrecords, List.map_append, followAll_append, ← hbefore] at hq
      obtain ⟨q', hq', hstep⟩ := Option.bind_eq_some_iff.1 hq
      rw [List.map_singleton, followAll_singleton] at hstep
      obtain ⟨v, hv⟩ := form_jalr hj
      obtain ⟨hvj, hvk, _, hconst⟩ := hs.operands e (.inl he) q' (hd ▸ hq')
      rw [follow_jalr hj hstep, hvj.resolved hqj, hvk.resolved (hconst v (same ▸ hv)), same]

end

end Sys2Proof.Machine
end

section
/-! PROOFS. A fetched record joins the stretch of sequential execution (44_branch_fetch.md R322 to R328). -/

namespace Sys2Proof.Machine

section

variable {p : Stretch} {q : InOrder} {s u : State} {r : Decoded} {t : Tag} {i : Instr} {next pc : Word}
  {c : Config}

/-- The state before a tag up to the next one is the same, one record more or less. -/
theorem Stretch.before_add {t' : Tag} (ht : t ∈ p.records.map (·.1) ∨ t = t') : (p.add t' r).before t = p.before t :=
  Stretch.before_appended t' ht

/-- What joins iq leaves the claims of the back end as they are. -/
theorem Claims.fetched (hs : Claims p s) (inFlight : InFlight s) (hu : InFlight u) {ms : List CdbMsg}
    (announced : Announced ms u) (hrob : u.rob = s.rob) (halu : u.rsAlu = s.rsAlu) (hmd : u.rsMd = s.rsMd)
    (hagu : u.rsAgu = s.rsAgu) (hlb : u.lb = s.lb) (hcfg : u.cfg = s.cfg) (hmem : u.mem = s.mem)
    (hiq : u.iq = s.iq ++ [r]) (hnext : u.nextTag = s.nextTag) : Claims (p.add (fetchTag s) r) u := by
  have placed : ∀ t ∈ robTags u, t ∈ p.records.map (·.1) := fun t ht => by
    rw [robTags, hrob] at ht
    exact robTag_record hs.records ht
  refine hs.transport hu announced rfl hcfg (hs.mem.trans hmem.symm) ?_ (hmem ▸ hs.wf) (hrob ▸ fun _ => id)
    (halu ▸ fun _ => id) (hmd ▸ fun _ => id) (hagu ▸ fun _ => id) (hlb ▸ fun _ => id)
    (fun t ht q hq => (Stretch.before_add (.inl (placed t ht))).symm.trans hq) (fun t _ w hw => Stretch.value_add hw)
    fun l hl ql holds hc hn x hx hle q hq => ?_
  · rw [flight_fetched hrob hiq hnext, ← hs.records]
    rfl
  · rcases List.mem_append.1 (show x ∈ p.records ++ [(fetchTag s, r)] from hx) with hx | hx
    · exact holds.unchanged hc hn x hx hle q ((Stretch.before_add (.inl (List.mem_map_of_mem hx))).symm.trans hq)
    · cases List.mem_singleton.1 hx
      obtain ⟨h, eh, _⟩ := inFlight.lb_owner (hlb ▸ hl)
      exact absurd (Nat.lt_of_le_of_lt hle (robAt_range inFlight.order eh).2) (Nat.not_lt.2 (Nat.le_add_right _ _))

/-- The fetched record is what sequential execution reads at its pc. -/
theorem Fetched.genuine (f : Fetched s i r next) (hallowed : accessFault s.cfg s.pc 4 = none)
    (hdecode : decodeWord (fetchedWord s) = .ok i) : Genuine s.cfg s.mem r := by
  obtain ⟨hpc, hop⟩ := f.record
  obtain ⟨form, hform⟩ := f.form
  refine ⟨hpc ▸ allowed_of_accessFault hallowed, ⟨i, ?_, hop⟩, by rw [formOf_eq hform, hform]⟩
  rw [hpc]
  exact hdecode

/-- The record that has joined iq is the JALR that fetch now waits for, or fetch goes on. -/
theorem JalrPlace.fetch (hs : JalrPlace s) (f : FetchesAt s pc) (hiq : u.iq = s.iq ++ [r])
    (hw : u.jalrWait = if isJalrOp r.op then .unissued else .none) : JalrPlace u := by
  have plain : ∀ x ∈ s.iq, isJalrOp x.op = false := by
    cases hs with
    | free _ hi => exact hi
    | queued before x hn =>
      cases f with
      | straight hn' => cases hn.symm.trans hn'
      | resumed _ _ hn' => cases hn.symm.trans hn'
    | issued _ _ _ _ hi => simp [hi]
  cases hj : isJalrOp r.op with
  | true => exact .queued s.iq r (by rw [hw, hj]; rfl) hiq hj plain
  | false =>
    refine .free (by rw [hw, hj]; rfl) fun x hx => ?_
    rw [hiq] at hx
    rcases List.mem_append.1 hx with hx | hx
    · exact plain x hx
    · exact List.mem_singleton.1 hx ▸ hj

theorem Faithful.fetchStage (hs : Faithful p s) (serving : Serving c s) (hr : s.status = .running)
    (hx : fetchStage s = .next u) (hu : u.status = .running) :
    ∃ p', p'.cfg = p.cfg ∧ p'.start = p.start ∧ Faithful p' u := by
  rcases fetchStage_fetched hx hu with ⟨_, rfl⟩ | ⟨pc, i, r, next, hat, hallowed, hdecode, f, rfl⟩
  · exact ⟨p, rfl, rfl, hs⟩
  · have inFlight := serving.delivering.inFlight
    have start := (serving.delivering.after_fetchStage hr hx).1 hu
    obtain ⟨hpc, _⟩ := f.record
    have genuine : Genuine p.cfg p.start.mem r := hs.cfg ▸ hs.mem ▸ f.genuine hallowed hdecode
    have last : (p.add (fetchTag s) r).before (fetchTag s) = p.stop :=
      (Stretch.before_add (.inr rfl)).trans (Stretch.before_absent (fetchTag_absent inFlight.order hs.records))
    refine ⟨p.add (fetchTag s) r, rfl, rfl, hs.toClaims.fetched inFlight start.inFlight start.announced rfl rfl rfl rfl rfl
      rfl rfl rfl rfl, fun x hx => ?_, fun x hx q hq => ?_, fun hn q hq => ?_, hs.regs, fun x hx0 q hq => ?_, hs.claimed,
      hs.jalr.fetch hat rfl rfl⟩
    · rcases List.mem_append.1 (show x ∈ p.records ++ [(fetchTag s, r)] from hx) with hx | hx
      · exact hs.genuine x hx
      · exact List.mem_singleton.1 hx ▸ genuine
    · rcases List.mem_append.1 (show x ∈ p.records ++ [(fetchTag s, r)] from hx) with hx | hx
      · exact hs.path x hx q ((Stretch.before_add (.inl (List.mem_map_of_mem hx))).symm.trans hq)
      · cases List.mem_singleton.1 hx
        rw [last] at hq
        exact (hs.fetches_at inFlight hat hq).trans hpc.symm
    · rw [Stretch.add, Stretch.stop_appended] at hq
      obtain ⟨q', hq', hstep⟩ := Option.bind_eq_some_iff.1 hq
      refine f.follows ?_ (hs.fetches_at inFlight hat hq') hstep
      cases hj : isJalrOp r.op with
      | true => simp [fetchedState, hj] at hn
      | false => rfl
    · have hq' : p.before s.nextTag = some q :=
        (Stretch.before_add (nextTag_placed hs.records)).symm.trans hq
      obtain ⟨idle, produced⟩ := hs.reads x hx0 q hq'
      exact ⟨idle, fun hb => Stretch.value_add (produced hb)⟩

end

end Sys2Proof.Machine
end

section
/-! PROOFS. The head retires: the stretch of sequential execution moves on by one record (46_commit.md R376, R377). -/

namespace Sys2Proof.Machine

/-- What a retirement without a squash leaves, memory left open (46_commit.md R372 to R377). -/
structure Retired (h : RobEntry) (younger : List RobEntry) (s u : State) : Prop where
  regs : u.regs = regsWith s h.dest h.result
  rst : u.rst = rstReleased s h.dest h.tag
  rob : u.rob = younger
  iq : u.iq = s.iq
  nextTag : u.nextTag = s.nextTag
  jalrWait : u.jalrWait = s.jalrWait
  pc : u.pc = s.pc
  cfg : u.cfg = s.cfg
  alu : u.rsAlu = s.rsAlu
  md : u.rsMd = s.rsMd
  agu : u.rsAgu = s.rsAgu
  lb : u.lb = s.lb

section

variable {p : Stretch} {q w : InOrder} {s u : State} {h g : RobEntry} {younger : List RobEntry} {x : Reg} {t : Tag}
  {ms : List CdbMsg}

/-- The head is the first record. -/
theorem flight_head (hrob : s.rob = h :: younger) (hu : u.rob = younger) (hiq : u.iq = s.iq)
    (hnext : u.nextTag = s.nextTag) : flight s = (h.tag, h.ins) :: flight u := by
  rw [flight, flight, hrob, hu, hiq, hnext]
  rfl

theorem Claims.before_head (hs : Claims p s) (ho : TagsInOrder s) (hrob : s.rob = h :: younger) :
    p.before h.tag = some p.start := by
  rw [before_rob ho hs.records (older := []) hrob]
  rfl

/-- The tags behind the head are others. -/
theorem ne_head (ho : TagsInOrder s) (hrob : s.rob = h :: younger) (hu : u.rob = younger) (hnext : u.nextTag = s.nextTag)
    {y : Tag × Decoded} (hy : y ∈ flight u) : h.tag < y.1 := by
  rcases List.mem_append.1 hy with hy | hy
  · obtain ⟨g, hg, rfl⟩ := List.mem_map.1 hy
    exact lt_younger ho (older := []) hrob (hu ▸ hg)
  · have hlt := (((tagsInOrder_iff s).1 ho).2.1 h.tag (List.mem_map_of_mem (by simp [hrob]))).2
    exact Nat.lt_of_lt_of_le (hnext ▸ hlt) (le_of_mem_numbered hy).1

/-! ### The registers -/

theorem rstAt_retired (r : Retired h younger s u) (x : Reg) :
    rstAt u x = if x = h.dest ∧ x ≠ 0 ∧ rstAt s x = ⟨true, h.tag⟩ then ⟨false, 0⟩ else rstAt s x := by
  have own : rstAt u x = (rstReleased s h.dest h.tag)[x.toNat]'x.isLt := by rw [rstAt, ← r.rst]
  rw [own]
  by_cases hc : h.dest ≠ 0 ∧ rstAt s h.dest = ⟨true, h.tag⟩
  · have released : rstReleased s h.dest h.tag = s.rst.set h.dest.toNat ⟨false, 0⟩ h.dest.isLt := if_pos hc
    simp only [released]
    by_cases hx : x = h.dest
    · subst hx
      rw [if_pos ⟨rfl, hc⟩]
      exact Vector.getElem_set_self _
    · rw [if_neg fun hn => hx hn.1]
      exact Vector.getElem_set_ne _ _ fun hn => hx (BitVec.eq_of_toNat_eq hn.symm)
  · have kept : rstReleased s h.dest h.tag = s.rst := if_neg hc
    simp only [kept]
    have other : ¬ (x = h.dest ∧ x ≠ 0 ∧ rstAt s x = ⟨true, h.tag⟩) := by
      rintro ⟨rfl, hn⟩
      exact hc hn
    rw [if_neg other]
    rfl

theorem readReg_retired (r : Retired h younger s u) (hx : x ≠ 0) :
    readReg u x = if x = h.dest then h.result else readReg s x := by
  rw [readReg_eq hx, readReg_eq hx]
  have own : u.regs[x.toNat]'x.isLt = (regsWith s h.dest h.result)[x.toNat]'x.isLt := by simp only [r.regs]
  rw [own, regsWith]
  by_cases hd : x = h.dest
  · subst hd
    rw [if_pos rfl]
    simp only [if_neg hx]
    exact Vector.getElem_set_self _
  · rw [if_neg hd]
    split
    · rfl
    · exact Vector.getElem_set_ne _ _ fun hn => hd (BitVec.eq_of_toNat_eq hn.symm)

/-- The registers of sequential execution behind the head. -/
theorem Faithful.regs_retired (hs : Faithful p s) (hm : h ∈ s.rob) (r : Retired h younger s u)
    (hstep : follow p.cfg p.start h.ins = some w) (hresult : destOf h.ins ≠ 0 → w.read (destOf h.ins) = h.result) :
    w.regs = u.regs := by
  have hshape := hs.shape h hm
  have hdest := hshape.dest
  rw [(follow_effect hshape.form hstep).regs, r.regs, hdest, regsWith, InOrder.write]
  split
  · exact hs.regs
  · rename_i hd
    rw [hresult hd]
    exact congrArg (fun v : RegFile => v.set (destOf h.ins).toNat h.result (destOf h.ins).isLt) hs.regs

/-- Behind the head the registers still stand for those before the next instruction to issue. -/
theorem Faithful.reads_retired (hs : Faithful p s) (inFlight : InFlight s) (hrob : s.rob = h :: younger)
    (r : Retired h younger s u) (hstep : follow p.cfg p.start h.ins = some w)
    (hresult : destOf h.ins ≠ 0 → w.read (destOf h.ins) = h.result) (hx : x ≠ 0)
    (hq : p.before s.nextTag = some q) : RegHolds ⟨p.cfg, w, flight u⟩ u x (q.read x) := by
  have hrecords := hs.records.trans (flight_head hrob r.rob r.iq r.nextTag)
  have hm : h ∈ s.rob := by simp [hrob]
  have hdest := (hs.shape h hm).dest
  have kept {t : Tag} {v : Word} (ht : t ≠ h.tag) (hv : p.value t = some v) :
      (⟨p.cfg, w, flight u⟩ : Stretch).value t = some v := (Stretch.value_tail hrecords hstep ht).trans hv
  obtain ⟨idle, produced⟩ := hs.reads x hx q hq
  by_cases hd : x = h.dest
  · obtain ⟨hbusy, _⟩ := hs.claimed (h.tag, h.ins) (List.mem_map_of_mem hm) (show destOf h.ins ≠ 0 from hdest ▸ hd ▸ hx)
    replace hbusy : (rstAt s x).busy = true := by rw [hd, hdest]; exact hbusy
    by_cases hown : (rstAt s x).tag = h.tag
    · have entry : rstAt s x = ⟨true, h.tag⟩ := by rw [← hown, ← hbusy]
      have free : rstAt u x = ⟨false, 0⟩ := by rw [rstAt_retired r, if_pos ⟨hd, hx, entry⟩]
      refine ⟨fun _ => ?_, fun hb => ?_⟩
      · have hv := produced hbusy
        rw [hown, value_rob inFlight.order hs.records hm, hs.before_head inFlight.order hrob] at hv
        have hread : w.read (destOf h.ins) = q.read x := by simpa [hstep] using hv
        rw [readReg_retired r hx, if_pos hd, ← hread, hresult (hdest ▸ hd ▸ hx)]
      · rw [free] at hb
        cases hb
    · have same : rstAt u x = rstAt s x := by
        rw [rstAt_retired r, if_neg fun hn => hown (congrArg RstEntry.tag hn.2.2)]
      rw [← same] at hbusy hown produced
      exact ⟨fun hb => absurd (hbusy.symm.trans hb) (by simp), fun hb => kept hown (produced hb)⟩
  · have same : rstAt u x = rstAt s x := by rw [rstAt_retired r, if_neg fun hn => hd hn.1]
    refine ⟨fun hb => ?_, fun hb => ?_⟩
    · rw [readReg_retired r hx, if_neg hd]
      exact idle (same ▸ hb)
    · rw [same] at hb ⊢
      obtain ⟨_, g, eg, hgd⟩ := inFlight.busy x hb
      refine kept (fun ht => hd ?_) (produced hb)
      rw [ht, robAt_head hrob] at eg
      cases eg
      exact hgd.symm

/-- Behind the head every destination is still claimed. -/
theorem Faithful.claimed_retired (hs : Faithful p s) (ho : TagsInOrder s) (hrob : s.rob = h :: younger)
    (r : Retired h younger s u) {y : Tag × Decoded} (hy : y ∈ issuedRecords u) (hd : destOf y.2 ≠ 0) :
    (rstAt u (destOf y.2)).busy = true ∧ y.1 ≤ (rstAt u (destOf y.2)).tag := by
  have old : y ∈ issuedRecords s := by
    rw [issuedRecords, r.rob] at hy
    rw [issuedRecords, hrob]
    exact List.mem_cons_of_mem _ hy
  have hlt : h.tag < y.1 := ne_head ho hrob r.rob r.nextTag (List.mem_append_left _ hy)
  obtain ⟨hbusy, hle⟩ := hs.claimed y old hd
  have same : rstAt u (destOf y.2) = rstAt s (destOf y.2) := by
    rw [rstAt_retired r, if_neg]
    rintro ⟨_, _, hown⟩
    rw [hown] at hle
    exact Nat.lt_irrefl _ (Nat.lt_of_lt_of_le hlt hle)
  rw [same]
  exact ⟨hbusy, hle⟩

/-! ### The fetch stall -/

/-- The JALR that fetch waits for is not the one that retires. -/
theorem JalrPlace.retired (hs : JalrPlace s) (inFlight : InFlight s) (blocked : JalrBlocked s) (hrob : s.rob = h :: younger)
    (r : Retired h younger s u) (done : isJalrOp h.ins.op = true → h.complete = true) : JalrPlace u := by
  cases hs with
  | free hn hi => exact .free (r.jalrWait.trans hn) (r.iq ▸ hi)
  | queued before x hn hi hj hb => exact .queued before x (r.jalrWait.trans hn) (r.iq.trans hi) hj hb
  | issued t older x hn hi hr hj =>
    have hrecords : issuedRecords s = (h.tag, h.ins) :: issuedRecords u := by
      rw [issuedRecords, issuedRecords, hrob, r.rob]
      rfl
    rw [hrecords] at hr
    cases older with
    | nil =>
      obtain ⟨hhead, _⟩ := List.cons.inj hr
      obtain ⟨htag, hins⟩ := Prod.mk.inj hhead
      obtain ⟨e, he, hd, _⟩ := blocked t hn
      obtain ⟨g, eg, _, unfinished, _⟩ := inFlight.pool_owner (.inl he)
      rw [hd, ← htag, robAt_head hrob] at eg
      cases eg
      exact absurd (done (hins ▸ hj)) (by simp [unfinished])
    | cons y older => exact .issued t older x (r.jalrWait.trans hn) (r.iq.trans hi) (List.cons.inj hr).2 hj

/-! ### The retirement -/

theorem Faithful.retire (hs : Faithful p s) (inFlight : InFlight s) (blocked : JalrBlocked s) (hu : InFlight u)
    (announced : Announced ms u) (hrob : s.rob = h :: younger) (r : Retired h younger s u)
    (hstep : follow p.cfg p.start h.ins = some w) (hresult : destOf h.ins ≠ 0 → w.read (destOf h.ins) = h.result)
    (hmem : w.mem = u.mem) (done : isJalrOp h.ins.op = true → h.complete = true)
    (fresh : ∀ d ∈ u.iq ++ u.rob.map (·.ins), memRead u.mem d.pc 4 = memRead s.mem d.pc 4) :
    Faithful ⟨p.cfg, w, flight u⟩ u := by
  have ho := inFlight.order
  have hm : h ∈ s.rob := by simp [hrob]
  have hrecords := hs.records.trans (flight_head hrob r.rob r.iq r.nextTag)
  have later {y : Tag × Decoded} (hy : y ∈ flight u) : y.1 ≠ h.tag := Nat.ne_of_gt (ne_head ho hrob r.rob r.nextTag hy)
  have before {t : Tag} (ht : t ≠ h.tag) : (⟨p.cfg, w, flight u⟩ : Stretch).before t = p.before t :=
    Stretch.before_tail hrecords hstep ht
  have record {g : RobEntry} (hg : g ∈ u.rob) : (g.tag, g.ins) ∈ flight u :=
    List.mem_append_left _ (List.mem_map_of_mem hg)
  have ne_of_tag {t : Tag} (ht : t ∈ robTags u) : t ≠ h.tag := by
    obtain ⟨g, hg, rfl⟩ := List.mem_map.1 ht
    exact later (record hg)
  have inRecords {y : Tag × Decoded} (hy : y ∈ flight u) : y ∈ p.records := by
    rw [hrecords]
    exact List.mem_cons_of_mem _ hy
  have effect := follow_effect (hs.shape h hm).form hstep
  refine ⟨hs.toClaims.transport hu announced rfl r.cfg hmem rfl
    (hmem ▸ effect.mem_wf (hs.mem ▸ hs.wf)) (fun g hg => by rw [hrob, ← r.rob]; exact List.mem_cons_of_mem _ hg)
    (r.alu ▸ fun _ => id) (r.md ▸ fun _ => id) (r.agu ▸ fun _ => id) (r.lb ▸ fun _ => id)
    (fun t ht q hq => (before (ne_of_tag ht)).symm.trans hq)
    (fun t ht v hv => (Stretch.value_tail hrecords hstep (ne_of_tag ht)).trans hv)
    fun l hl q holds hc hn y hy hle q' hq' => ?_,
    fun y hy => ?_, fun y hy q hq => hs.path y (inRecords hy) q ((before (later hy)).symm.trans hq),
    fun hn q hq => ?_, hs.regs_retired hm r hstep hresult, fun x hx q hq => ?_,
    fun y hy hd => hs.claimed_retired ho hrob r hy hd, hs.jalr.retired inFlight blocked hrob r done⟩
  · have next : memRead w.mem l.addr (accessBytes l.ins.op) = memRead p.start.mem l.addr (accessBytes l.ins.op) := by
      obtain ⟨g, eg, _⟩ := hu.lb_owner hl
      cases hyounger : u.rob with
      | nil => simp [robAt, hyounger] at eg
      | cons g' rest =>
        have first : g' ∈ u.rob := by simp [hyounger]
        have hbefore : p.before g'.tag = some w := by
          rw [← before (later (record first)), before_rob hu.order (older := []) rfl hyounger]
          rfl
        have hold : g'.tag ≤ l.owner := by
          rw [← robAt_tag eg]
          have hg := robAt_mem eg
          rw [hyounger] at hg
          rcases List.mem_cons.1 hg with rfl | hg
          · exact Nat.le_refl _
          · exact Nat.le_of_lt (lt_younger hu.order (older := []) hyounger hg)
        exact holds.unchanged hc hn _ (inRecords (record first)) hold w hbefore
    exact (holds.unchanged hc hn y (inRecords hy) hle q' ((before (later hy)).symm.trans hq')).trans next.symm
  · obtain ⟨hallowed, ⟨i, hdecode, hop⟩, hform⟩ := hs.genuine y (inRecords hy)
    refine ⟨hallowed, ⟨i, ?_, hop⟩, hform⟩
    have hin : y.2 ∈ u.iq ++ u.rob.map (·.ins) := by
      rcases List.mem_append.1 hy with hy | hy
      · obtain ⟨g, hg, rfl⟩ := List.mem_map.1 hy
        exact List.mem_append_right _ (List.mem_map_of_mem (f := (·.ins)) hg)
      · refine List.mem_append_left _ ?_
        have := List.mem_map_of_mem (f := (·.2)) hy
        rwa [numbered_records] at this
    show decodeWord (memRead w.mem y.2.pc 4) = .ok i
    rw [hmem, fresh y.2 hin, ← hs.mem]
    exact hdecode
  · rw [Stretch.stop_tail hrecords hstep] at hq
    exact (hs.stop (r.jalrWait ▸ hn) q hq).trans r.pc.symm
  · refine hs.reads_retired inFlight hrob r hstep hresult hx ?_
    have hne : s.nextTag ≠ h.tag :=
      Nat.ne_of_gt (((tagsInOrder_iff s).1 ho).2.1 h.tag (List.mem_map_of_mem hm)).2
    rw [← before hne, ← r.nextTag]
    exact hq

/-- A squashed core starts anew. -/
theorem Faithful.of_empty {c : Config} (hcfg : c = s.cfg) (hwf : Memory.wf s.mem) (hregs : w.regs = s.regs)
    (hmem : w.mem = s.mem) (hpc : w.pc = s.pc) (hrob : s.rob = []) (hiq : s.iq = []) (halu : s.rsAlu = [])
    (hmd : s.rsMd = []) (hagu : s.rsAgu = []) (hlb : s.lb = []) (hrst : s.rst = clearAll) (hw : s.jalrWait = .none) : Faithful ⟨c, w, []⟩ s where
  cfg := hcfg
  mem := hmem
  records := by
    rw [flight, hrob, hiq]
    rfl
  wf := hwf
  shape := by simp [hrob]
  entry := by simp [hrob]
  operands e he := by
    rw [InPool, halu, hmd, hagu] at he
    simp at he
  alu := by simp [halu]
  md := by simp [hmd]
  agu := by simp [hagu]
  lb := by simp [hlb]
  genuine x hx := nomatch hx
  path x hx := nomatch hx
  stop _ q hq := by
    cases hq
    exact hpc
  regs := hregs
  reads r hr q hq := by
    cases hq
    refine ⟨fun _ => ?_, fun hb => ?_⟩
    · rw [readReg_eq hr, InOrder.read, if_neg hr]
      simp only [hregs]
    · simp [rstAt, hrst, clearAll, freeEntry] at hb
  claimed := by simp [issuedRecords, hrob]
  jalr := .free hw (by simp [hiq])

end

end Sys2Proof.Machine
end

section
/-! PROOFS. The commit stage does one step of sequential execution, or none (46_commit.md R370 to R379). -/

namespace Sys2Proof.Machine

/-- The commit stage of `s` leaves `u`: what it commits is the next of sequential execution, `q` the state behind it. -/
structure CommitsTo (p : Stretch) (s u : State) (q : InOrder) : Prop where
  run : inOrderRun p.cfg (committedBy s).length p.start = some (committedBy s, q)
  regs : q.regs = u.regs
  mem : q.mem = u.mem
  exits : ∀ code, u.status = .exited code → inOrderStep p.cfg q = .exit code
  goes : u.status = .running → ∃ p', p'.cfg = p.cfg ∧ p'.start = q ∧ Faithful p' u

section

variable {p : Stretch} {q w : InOrder} {s u v : State} {h : RobEntry} {younger : List RobEntry}

theorem committedBy_stays (hrob : s.rob = h :: younger) (hx : commitStage s = .next u) (hin : TagPresent u h.tag) :
    committedBy s = [] := by
  rw [committedBy, hrob]
  dsimp only
  rw [afterCommit_next hx, if_pos hin]

theorem committedBy_leaves (hrob : s.rob = h :: younger) (hx : commitStage s = .next u) (hout : ¬ TagPresent u h.tag) :
    committedBy s = [⟨h.ins.op, h.ins.pc, u.regs, u.mem⟩] := by
  rw [committedBy, hrob]
  dsimp only
  rw [afterCommit_next hx, if_neg hout]

/-- Nothing is committed. -/
theorem CommitsTo.none (hcommitted : committedBy s = []) (hregs : p.start.regs = u.regs) (hmem : p.start.mem = u.mem)
    (hexits : ∀ code, u.status = .exited code → inOrderStep p.cfg p.start = .exit code)
    (goes : u.status = .running → Faithful p u) : CommitsTo p s u p.start :=
  ⟨by rw [hcommitted]; rfl, hregs, hmem, hexits, fun hu => ⟨p, rfl, rfl, goes hu⟩⟩

/-- The head is committed. -/
theorem CommitsTo.one (hcommitted : committedBy s = [⟨h.ins.op, h.ins.pc, u.regs, u.mem⟩]) (hpc : p.start.pc = h.ins.pc)
    (hstep : inOrderStep p.cfg p.start = .next h.ins.op q) (hregs : q.regs = u.regs) (hmem : q.mem = u.mem)
    (hu : u.status = .running) {records : List (Tag × Decoded)} (faithful : Faithful ⟨p.cfg, q, records⟩ u) :
    CommitsTo p s u q where
  run := by
    rw [hcommitted, ← hpc, ← hregs, ← hmem]
    exact inOrderRun_succ 0 hstep
  regs := hregs
  mem := hmem
  exits code hc := by cases hu.symm.trans hc
  goes _ := ⟨⟨p.cfg, q, records⟩, rfl, rfl, faithful⟩

/-! ### The head's step -/

/-- A head of class other that is complete. -/
theorem Faithful.other_step (hs : Faithful p s) (ho : TagsInOrder s) (hrob : s.rob = h :: younger)
    (hk : OtherKind h.ins.op) (hc : h.complete = true) : ∃ w, follow p.cfg p.start h.ins = some w ∧
      (destOf h.ins ≠ 0 → w.read (destOf h.ins) = h.result) ∧ w.mem = s.mem := by
  have hm : h ∈ s.rob := by simp [hrob]
  obtain ⟨w, hw, hread⟩ := ((hs.entry h hm _ (hs.before_head ho hrob)).complete hc).value (.inl hk)
  refine ⟨w, hw, hread, ?_⟩
  have plain : storeWidth h.ins.op = none := by rcases hk with hk | hk | hk | hk | hk | hk <;> simp [storeWidth, hk]
  exact ((follow_effect (hs.shape h hm).form hw).mem_of_plain plain).trans hs.mem

/-- A store-class head that writes. -/
theorem Faithful.store_step (hs : Faithful p s) (ho : TagsInOrder s) (hrob : s.rob = h :: younger) {w : Width}
    (hw : storeWidth h.ins.op = some w) (ha : h.addrReady = true) (hv : h.valueReady = true)
    (hf : accessFault s.cfg h.addr (widthBytes w) = none) : ∃ u, follow p.cfg p.start h.ins = some u ∧
      (destOf h.ins ≠ 0 → u.read (destOf h.ins) = h.result) ∧ u.mem = memWrite s.mem h.addr (widthBytes w) h.wb := by
  have hm : h ∈ s.rob := by simp [hrob]
  have holds := hs.entry h hm _ (hs.before_head ho hrob)
  have hform := (hs.shape h hm).form
  obtain ⟨u, hu, hread⟩ : ∃ u, follow p.cfg p.start h.ins = some u ∧
      (destOf h.ins ≠ 0 → u.read (destOf h.ins) = h.result) := by
    rcases storeWidth_some (o := h.ins.op) (by simp [hw]) with ⟨ws, hk⟩ | hk
    · cases hop : h.ins.op with
      | nop => rw [hop] at hk; cases hk
      | ins i =>
        rw [hop] at hk hw hform
        replace hk : kindOf i = .store ws := hk
        cases (storeWidth_of_kind hk).symm.trans hw
        obtain ⟨a, b, imm, hshape⟩ : ∃ a b imm, storeShape i = some (w, a, b, imm) := by
          cases i <;> cases hk <;> exact ⟨_, _, _, rfl⟩
        refine ⟨_, (follow_store hop hshape).trans (if_pos ?_), fun hd => absurd (issueTable_store hform hk) hd⟩
        rw [← holds.addr ha, hs.cfg]
        exact allowed_of_accessFault hf
    · obtain ⟨u, hu, _, hread⟩ := holds.amo hk hv
      exact ⟨u, hu, hread⟩
  refine ⟨u, hu, hread, ?_⟩
  rw [(holds.written rfl hw ha hv hu).2, hs.mem]

/-- A branch at the head: its outcome. -/
theorem Faithful.branch_head (hs : Faithful p s) (ho : TagsInOrder s) (hrob : s.rob = h :: younger)
    {i : Instr} (hop : h.ins.op = .ins i) (hk : kindOf i = .branch) (hc : h.complete = true) :
    ∃ taken imm, branchShape i p.start.read = some (taken, imm) ∧ (h.result == 1) = taken := by
  obtain ⟨_, imm, hshape⟩ := branchShape_of_kind hk
  obtain ⟨taken, hshape⟩ := branchShape_offset hshape p.start.read
  have hm : h ∈ s.rob := by simp [hrob]
  have right := (hs.entry h hm _ (hs.before_head ho hrob)).complete hc
  refine ⟨taken, imm, hshape, ?_⟩
  rw [right.branch i taken imm hop hshape]
  cases taken <;> rfl

/-- What the dispatcher of a clock-free configuration answers sequential execution. -/
theorem dispatch_inOrder {c : Config} (clock : ClockFree c) (hcfg : s.cfg = c) (hregs : w.regs = s.regs)
    (hmem : w.mem = s.mem) : dispatch (w.forDispatch c) = dispatch s := by
  have timed : dispatch { w.forDispatch c with cycle := s.cycle } = dispatch (w.forDispatch c) :=
    clock (w.forDispatch c) s.cycle rfl
  rw [← timed]
  exact dispatch_congr hregs hmem rfl hcfg.symm

/-! ### The stage -/

theorem Faithful.head_genuine (hs : Faithful p s) (hrob : s.rob = h :: younger) : Genuine p.cfg p.start.mem h.ins := by
  refine hs.genuine (h.tag, h.ins) ?_
  rw [hs.records, flight, hrob]
  exact List.mem_cons_self

theorem Faithful.head_holds (hs : Faithful p s) (ho : TagsInOrder s) (hrob : s.rob = h :: younger) :
    EntryHolds p p.start h := hs.entry h (by simp [hrob]) _ (hs.before_head ho hrob)

/-- A head that leaves with the entries behind it standing. -/
theorem Faithful.retires (hs : Faithful p s) (duty : OnDuty s) (next : Committing s.cfg u) (hrob : s.rob = h :: younger)
    (hx : commitStage s = .next u) (fresh : ¬ StaleFetch s) (hu : u.status = .running) (r : Retired h younger s u)
    (hstep : follow p.cfg p.start h.ins = some w) (hresult : destOf h.ins ≠ 0 → w.read (destOf h.ins) = h.result)
    (hmem : w.mem = u.mem) (done : isJalrOp h.ins.op = true → h.complete = true) : CommitsTo p s u w := by
  have out : ¬ TagPresent u h.tag := by
    rintro ⟨g, hg, ht⟩
    rw [r.rob] at hg
    exact Nat.lt_irrefl _ (ht ▸ lt_younger duty.inFlight.order (older := []) hrob hg)
  have hpc := (hs.head_holds duty.inFlight.order hrob).pc
  have unchanged : ∀ d ∈ u.iq ++ u.rob.map (·.ins), memRead u.mem d.pc 4 = memRead s.mem d.pc 4 := fun d hd => by
    by_contra hne
    refine fresh ⟨d, ?_, ?_⟩ <;> rw [afterCommit_next hx]
    · exact hd
    · exact hne
  exact .one (committedBy_leaves hrob hx out) hpc (inOrderStep_follow (hs.head_genuine hrob) hpc hstep)
    (hs.regs_retired (by simp [hrob]) r hstep hresult) hmem hu
    (hs.retire duty.inFlight duty.jalr next.inFlight next.announced hrob r hstep hresult hmem done unchanged)

/-- A head behind which the core is squashed. -/
theorem Faithful.squashes (hs : Faithful p s) (duty : OnDuty s) (hrob : s.rob = h :: younger)
    (hx : commitStage s = .next { squashed v with stage := .fetch }) (hv : v.status = .running) (hcfg : v.cfg = s.cfg)
    (hwf : Memory.wf v.mem) (hstep : inOrderStep p.cfg p.start = .next h.ins.op q) (hregs : q.regs = v.regs)
    (hmem : q.mem = v.mem) (hpc : q.pc = v.pc) : CommitsTo p s { squashed v with stage := .fetch } q := by
  have out : ¬ TagPresent { squashed v with stage := .fetch } h.tag := fun ⟨g, hg, _⟩ => nomatch hg
  exact .one (records := []) (committedBy_leaves hrob hx out) (hs.head_holds duty.inFlight.order hrob).pc hstep hregs hmem hv
    (.of_empty (hs.cfg.trans hcfg.symm) hwf hregs hmem hpc rfl rfl rfl rfl rfl rfl rfl rfl)

/-- The head stays, with a tick of its latency counted. -/
theorem Faithful.held (hs : Faithful p s) (hrob : s.rob = h :: younger) (n : Nat) :
    Faithful p { s with rob := { h with progress := n } :: younger } := by
  have updated : Claims p (updateRob h.tag (fun h => { h with progress := n }) s) :=
    hs.toClaims.updated (fun _ => rfl) (fun _ => rfl) (fun h hh => ⟨hh.dest, hh.form, hh.queued⟩)
      fun h _ _ q _ hh => ⟨hh.pc, hh.complete, hh.syscall, hh.addr, hh.data, hh.queue, hh.amo⟩
  have same : updateRob h.tag (fun h => { h with progress := n }) s =
      { s with rob := { h with progress := n } :: younger } := by
    rw [updateRob, hrob, updateFirst, if_pos (beq_self_eq_true _)]
  rw [same] at updated
  exact .of_backend hs.toFront hs.toClaims updated rfl rfl rfl rfl rfl rfl

theorem Faithful.setStage (hs : Faithful p s) (k : Stage) : Faithful p { s with stage := k } :=
  .of_backend hs.toFront hs.toClaims (hs.toClaims.setStage k) rfl rfl rfl rfl rfl rfl

theorem isJalr_kind {o : Op} (hj : isJalrOp o = true) : opKind o = .alu := by
  cases o with
  | nop => cases hj
  | ins i =>
    cases i <;> cases hj
    rfl

/-- A branch that was predicted right. -/
theorem Faithful.right_step (hs : Faithful p s) (ho : TagsInOrder s) (hrob : s.rob = h :: younger)
    (hk : opKind h.ins.op = .branch) (hc : h.complete = true) (hp : (h.result == 1) = h.ins.pred) :
    h.dest = 0 ∧ destOf h.ins = 0 ∧ ∃ w, follow p.cfg p.start h.ins = some w ∧ w.mem = s.mem := by
  have hm : h ∈ s.rob := by simp [hrob]
  have hshape := hs.shape h hm
  cases hop : h.ins.op with
  | nop => rw [hop] at hk; cases hk
  | ins i =>
    have hform := hshape.form
    rw [hop] at hk hform
    replace hk : kindOf i = .branch := hk
    obtain ⟨taken, imm, hbranch, htaken⟩ := hs.branch_head ho hrob hop hk hc
    have hd : destOf h.ins = 0 := issueTable_branch hform hk
    refine ⟨hshape.dest.trans hd, hd, _, (follow_branch hop hbranch).trans (if_pos (hp.symm.trans htaken)), hs.mem⟩

/-- A branch that was predicted wrong. -/
theorem Faithful.wrong_step (hs : Faithful p s) (ho : TagsInOrder s) (hrob : s.rob = h :: younger) {i : Instr}
    {taken : Bool} {imm : Word} (hop : h.ins.op = .ins i) (hshape : branchShape i (fun _ => 0) = some (taken, imm))
    (hc : h.complete = true) : inOrderStep p.cfg p.start =
      .next h.ins.op { p.start with pc := branchTarget h imm (h.result == 1) } := by
  have hk : kindOf i = .branch := by cases i <;> cases hshape <;> rfl
  obtain ⟨allowed, ⟨j, hdecode, hj⟩, _⟩ := hs.head_genuine hrob
  have hpc := (hs.head_holds ho hrob).pc
  obtain ⟨taken', imm', hbranch, htaken⟩ := hs.branch_head ho hrob hop hk hc
  obtain ⟨_, hoffset⟩ := branchShape_offset hshape p.start.read
  have himm : imm' = imm := by
    rw [hbranch] at hoffset
    exact (Prod.mk.inj (Option.some.inj hoffset)).2
  have hij : j = i := by
    rw [hop, recordOp] at hj
    split at hj
    · cases hj
    · exact (Op.ins.inj hj).symm
  subst hij himm
  rw [← hpc] at allowed hdecode
  rw [inOrderStep_branch allowed hdecode hbranch, hop, htaken, branchTarget, ← hpc]

theorem Faithful.commitStage (hs : Faithful p s) (duty : OnDuty s) (hr : s.status = .running)
    (hlat : 1 ≤ s.cfg.cacheLat) (clock : ClockFree p.cfg) (fresh : ¬ StaleFetch s) (hx : commitStage s = .next u) :
    ∃ q, CommitsTo p s u q := by
  cases hrob : s.rob with
  | nil =>
    cases (commitStage_empty hrob).symm.trans hx
    refine ⟨_, .none (by rw [committedBy, hrob]) hs.regs hs.mem (fun code hc => ?_) fun _ => hs⟩
    cases hr.symm.trans hc
  | cons h younger =>
    have hm : h ∈ s.rob := by simp [hrob]
    have ho := duty.inFlight.order
    have holds := hs.head_holds ho hrob
    have next := duty.commitStage hr hlat hx
    obtain ⟨v, hc, rfl⟩ := commitStage_head hrob hx
    cases hc with
    | waits =>
      refine ⟨_, .none (committedBy_stays hrob hx ⟨h, hm, rfl⟩) hs.regs hs.mem (fun code hc => ?_)
        fun _ => hs.setStage _⟩
      cases hr.symm.trans hc
    | holds =>
      refine ⟨_, .none (committedBy_stays hrob hx ⟨_, List.mem_cons_self, rfl⟩) hs.regs hs.mem (fun code hc => ?_)
        fun _ => (hs.held hrob 1).setStage _⟩
      cases hr.symm.trans hc
    | other hk hcomplete =>
      obtain ⟨w, hstep, hresult, hmem⟩ := hs.other_step ho hrob hk hcomplete
      exact ⟨w, hs.retires duty (next.1 hr) hrob hx fresh hr ⟨rfl, rfl, rfl, rfl, rfl, rfl, rfl, rfl, rfl, rfl, rfl, rfl⟩
        hstep hresult hmem fun _ => hcomplete⟩
    | writes w hw ha hv hp hf =>
      obtain ⟨u, hstep, hresult, hmem⟩ := hs.store_step ho hrob hw ha hv hf
      refine ⟨u, hs.retires duty (next.1 hr) hrob hx fresh hr ⟨rfl, rfl, rfl, rfl, rfl, rfl, rfl, rfl, rfl, rfl, rfl, rfl⟩
        hstep hresult hmem fun hj => ?_⟩
      rw [storeWidth, isJalr_kind hj] at hw
      cases hw
    | right hk hcomplete hpred =>
      obtain ⟨hd, hdest, w, hstep, hmem⟩ := hs.right_step ho hrob hk hcomplete hpred
      refine ⟨w, hs.retires duty (next.1 hr) hrob hx fresh hr ⟨?_, ?_, rfl, rfl, rfl, rfl, rfl, rfl, rfl, rfl, rfl, rfl⟩
        hstep (fun h0 => absurd hdest h0) hmem fun _ => hcomplete⟩
      · rw [regsWith, if_pos hd]
      · rw [rstReleased, if_neg fun h => h.1 hd]
    | wrong i taken imm hop hshape hcomplete =>
      exact ⟨_, hs.squashes duty hrob hx hr rfl hs.wf (hs.wrong_step ho hrob hop hshape hcomplete) hs.regs hs.mem rfl⟩
    | resumes x writes hk hv hd =>
      have answer : dispatch (p.start.forDispatch p.cfg) = .resume x writes :=
        (dispatch_inOrder (s := { s with stage := .commit }) clock hs.cfg.symm hs.regs hs.mem).trans hd
      have hstep := inOrderStep_resumes (hs.head_genuine hrob) holds.pc hk answer
      have hresult : h.result = p.start.pc + 4 := ((holds.syscall hk hv).syscall hk).trans (congrArg (· + 4) holds.pc.symm)
      refine ⟨_, hs.squashes duty hrob hx hr rfl (writeBytes_wf _ _ hs.wf) hstep ?_ ?_ hresult.symm⟩
      · exact congrArg (fun v : RegFile => v.set 10 x) hs.regs
      · exact congrArg (fun m => writeBytes m writes) hs.mem
    | exits code hk hv hd =>
      have answer : dispatch (p.start.forDispatch p.cfg) = .exit code :=
        (dispatch_inOrder (s := { s with stage := .commit }) clock hs.cfg.symm hs.regs hs.mem).trans hd
      have hstep := inOrderStep_exits (hs.head_genuine hrob) holds.pc hk answer
      refine ⟨_, .none (committedBy_stays hrob hx ⟨h, hm, rfl⟩) hs.regs hs.mem (fun c hc => ?_) fun hu => (by cases hu)⟩
      cases hc
      exact hstep
    | faults f =>
      exact ⟨_, .none (committedBy_stays hrob hx ⟨h, hm, rfl⟩) hs.regs hs.mem (fun c hc => by cases hc) fun hu => (by cases hu)⟩

end

end Sys2Proof.Machine
end

section
/-! PROOFS. A tick, and a run, do what sequential execution does (70_reset_and_hazards.md R448). -/

namespace Sys2Proof.Machine

/-- The state of the core belongs to a stretch of sequential execution that starts at `q`. -/
def Onward (c : Config) (q : InOrder) (s : State) : Prop := ∃ p : Stretch, p.cfg = c ∧ p.start = q ∧ Faithful p s

section

variable {p : Stretch} {q : InOrder} {s t u : State} {c : Config} {n : Nat}

/-! ### The stages behind commit -/

theorem Onward.broadcastStage (hs : Onward c q s) (committing : Committing c s) (hr : s.status = .running)
    (hx : broadcastStage s = .next u) : Onward c q u := by
  obtain ⟨p, hcfg, hstart, faithful⟩ := hs
  obtain ⟨_, rfl, _⟩ := committing.broadcastStage hr hx
  exact ⟨p, hcfg, hstart, .of_backend faithful.toFront faithful.toClaims
    (faithful.toClaims.broadcasted committing.inFlight) rfl rfl rfl rfl rfl rfl⟩

theorem Onward.executeStage (hs : Onward c q s) (serving : Serving c s) (hlat : 1 ≤ c.cacheLat) (hr : s.status = .running)
    (hx : executeStage s = .next u) (hu : u.status = .running) (clear : NoHazard u) : Onward c q u := by
  obtain ⟨p, rfl, hstart, faithful⟩ := hs
  have claims := (faithful.toClaims.executeStage serving.delivering hlat hr hx).1 hu clear
  have frame := executeStage_backendOnly hr hx
  exact ⟨p, rfl, hstart, .of_backend faithful.toFront faithful.toClaims claims frame.regs frame.rst frame.iq frame.pc
    frame.jalrWait frame.nextTag⟩

/-- An issue shows every access and address that was there. -/
theorem Serving.issueStage_exposes (serving : Serving c s) (hr : s.status = .running) (hx : Machine.issueStage s = .next u) :
    Exposes s u ∧ u.status = .running := by
  rcases serving.issueStage_cases hr hx with ⟨_, rfl⟩ | ⟨r, waiting, form, j, k, d, _, _, _, _, _, rfl⟩
  · exact ⟨.refl _, hr⟩
  · refine ⟨⟨(Exposes.refl s).access, fun h hm => ?_⟩, hr⟩
    exact ⟨h, List.mem_append_left _ hm, rfl, rfl, rfl, rfl⟩

theorem exposes_of_eq (hrob : u.rob = s.rob) (hlb : u.lb = s.lb) : Exposes s u :=
  ⟨fun l hl => ⟨l, hlb ▸ hl, rfl, rfl, rfl⟩, fun h hm => ⟨h, hrob ▸ hm, rfl, rfl, rfl, rfl⟩⟩

theorem Onward.issueStage (hs : Onward c q s) (serving : Serving c s) (hwf : c.wf) (hr : s.status = .running)
    (hx : issueStage s = .next u) (hu : u.status = .running) : Onward c q u := by
  obtain ⟨p, hcfg, hstart, faithful⟩ := hs
  exact ⟨p, hcfg, hstart, faithful.issueStage serving hwf hr hx hu⟩

theorem Onward.fetchStage (hs : Onward c q s) (serving : Serving c s) (hr : s.status = .running)
    (hx : fetchStage s = .next u) (hu : u.status = .running) : Onward c q u := by
  obtain ⟨p, hcfg, hstart, faithful⟩ := hs
  obtain ⟨p', hcfg', hstart', next⟩ := faithful.fetchStage serving hr hx hu
  exact ⟨p', hcfg'.trans hcfg, hstart'.trans hstart, next⟩

theorem Onward.endTick (hs : Onward c q s) (n : Nat) : Onward c q { s with cycle := n } := by
  obtain ⟨p, hcfg, hstart, faithful⟩ := hs
  exact ⟨p, hcfg, hstart, .of_backend faithful.toFront faithful.toClaims
    (faithful.toClaims.shrink rfl rfl rfl rfl rfl (fun _ => id) (fun _ => id) (fun _ => id) fun _ => id)
    rfl rfl rfl rfl rfl rfl⟩

/-! ### A tick -/

/-- A tick commits what sequential execution does next, and goes on with it while no case of R442 is met. -/
theorem Faithful.step (hs : Faithful p s) (duty : OnDuty s) (hwf : s.cfg.wf) (clock : ClockFree p.cfg)
    (fresh : ¬ StaleFetch s) (hx : step s = .next t) (clear : NoHazard t) : ∃ q, CommitsTo p s t q := by
  have hr := (step_next hx).1
  obtain ⟨a, ha⟩ := commitStage_answers s
  obtain ⟨q, commits⟩ := hs.commitStage duty hr hwf.2.2 clock fresh ha
  have same := step_sameArchitecture ha hx
  rw [← hs.cfg] at hwf
  have onward : Goes (fun u => NoHazard u → Onward p.cfg q u)
      (fun u => ∀ code, u.status = .exited code → inOrderStep p.cfg q = .exit code) t := by
    refine step_induction (C := fun v => Committing p.cfg v ∧ Onward p.cfg q v)
      (B := fun v => Serving p.cfg v ∧ Onward p.cfg q v)
      (X := fun v => Serving p.cfg v ∧ (NoHazard v → Onward p.cfg q v))
      (I := fun v => Serving p.cfg v ∧ (NoHazard v → Onward p.cfg q v)) (F := fun v => NoHazard v → Onward p.cfg q v) hx
      (fun b hb => ?_) (fun b v hbr ⟨committing, hb⟩ hv => ?_) (fun b v hbr ⟨serving, hb⟩ hv => ?_)
      (fun b v hbr ⟨serving, hb⟩ hv => ?_) (fun b v hbr ⟨serving, hb⟩ hv => ?_) fun b _ hb hclear => (hb hclear).endTick _
    · cases ha.symm.trans hb
      exact ⟨fun hu => ⟨hs.cfg ▸ (duty.commitStage hr (hs.cfg ▸ hwf.2.2) ha).1 hu, commits.goes hu⟩, fun _ => commits.exits⟩
    · have next := committing.broadcastStage hbr hv
      exact .running next.2.2.1 ⟨next.1, hb.broadcastStage committing hbr hv⟩
    · exact ⟨fun hu => ⟨(serving.executeStage hwf.2.2 hbr hv).1 hu, hb.executeStage serving hwf.2.2 hbr hv hu⟩,
        fun _ code hc => absurd hc (executeStage_notExited hbr hv code)⟩
    · obtain ⟨exposes, hu⟩ := serving.issueStage_exposes hbr hv
      exact .running hu ⟨(serving.issueStage hwf hbr hv).1 hu, fun hclear =>
        (hb (exposes.noHazard hclear)).issueStage serving hwf hbr hv hu⟩
    · have frame := fetchStage_frontendOnly hv
      exact ⟨fun hu hclear => (hb ((exposes_of_eq frame.rob frame.lb).noHazard hclear)).fetchStage serving hbr hv hu,
        fun _ code hc => absurd hc (fetchStage_notExited (.of_running hbr) hv code)⟩
  exact ⟨q, commits.run, commits.regs.trans same.regs.symm, commits.mem.trans same.mem.symm,
    fun code hc => onward.2 (by simp [hc]) code hc, fun hu => onward.1 hu clear⟩

/-! ### A run -/

/-- A run commits what sequential execution does, and an exit is sequential execution's. -/
structure Sequential (c : Config) (q : InOrder) (trace : List Committed) (t : State) (u : InOrder) : Prop where
  run : inOrderRun c trace.length q = some (trace, u)
  regs : u.regs = t.regs
  mem : u.mem = t.mem
  exits : ∀ code, t.status = .exited code → inOrderStep c u = .exit code

theorem Sequential.append {es fs : List Committed} {q u v : InOrder} (first : inOrderRun c es.length q = some (es, u))
    (second : Sequential c u fs t v) : Sequential c q (es ++ fs) t v := by
  refine ⟨?_, second.regs, second.mem, second.exits⟩
  rw [List.length_append, inOrderRun_add c _ _ q u es first, second.run]
  rfl

/-- A run that has stopped takes no more ticks. -/
theorem run_stopped (hs : s.status ≠ .running) (h : core.run n s = .next t) : n = 0 ∧ t = s := by
  cases n with
  | zero =>
    cases h
    exact ⟨rfl, rfl⟩
  | succ n =>
    exfalso
    simp only [Host.Core.run] at h
    cases hx : step s with
    | next u => exact hs (step_next hx).1
    | fault f =>
      rw [show core.step s = .fault f from hx] at h
      cases h
    | refused r =>
      rw [show core.step s = .refused r from hx] at h
      cases h

theorem Faithful.run (n : Nat) : ∀ {p : Stretch} {s t : State}, Faithful p s → OnDuty s → s.cfg.wf → ClockFree p.cfg →
    s.status = .running → (∀ k ≤ n, ∀ u, core.run k s = .next u → HazardFree u) → core.run n s = .next t →
    ∃ q, Sequential p.cfg p.start (commitTrace n s) t q := by
  induction n with
  | zero =>
    intro p s t hs _ _ _ hr _ h
    cases h
    exact ⟨p.start, rfl, hs.regs, hs.mem, fun code hc => by cases hr.symm.trans hc⟩
  | succ n ih =>
    intro p s t hs duty hwf clock hr free h
    obtain ⟨u, hx⟩ := step_answers hr
    have first (k : Nat) : core.run (k + 1) s = core.run k u := by
      simp only [Host.Core.run, show core.step s = .next u from hx]
    rw [first] at h
    obtain ⟨q, commits⟩ := hs.step duty hwf clock (free 0 (Nat.zero_le _) s rfl).2 hx
      (free 1 (Nat.succ_le_succ (Nat.zero_le n)) u (first 0)).1
    rw [commitTrace_succ n hx]
    by_cases hu : u.status = .running
    · obtain ⟨p', hcfg, rfl, next⟩ := commits.goes hu
      obtain ⟨nextDuty, hucfg⟩ := (duty.after_step hwf hx).1 hu
      obtain ⟨v, rest⟩ := ih next nextDuty (hucfg ▸ hwf) (hcfg ▸ clock) hu
        (fun k hk w hw => free (k + 1) (Nat.succ_le_succ hk) w ((first k).trans hw)) h
      exact ⟨v, (hcfg ▸ rest).append commits.run⟩
    · obtain ⟨rfl, rfl⟩ := run_stopped hu h
      exact ⟨q, Sequential.append commits.run ⟨rfl, commits.regs, commits.mem, commits.exits⟩⟩

end

/-- The start of a run. -/
theorem Faithful.launch (cfg : Config) (entry : Word) (regs : RegFile) {mem : Memory} (hmem : Memory.wf mem) :
    Faithful ⟨cfg, ⟨regs.set 0 0, entry, mem⟩, []⟩ (State.launch cfg entry regs mem) :=
  .of_empty rfl hmem rfl rfl rfl rfl rfl rfl rfl rfl rfl rfl rfl

/-! ### Two runs -/

section

variable {c d : Config} {q : InOrder} {es fs : List Committed}

/-- Sequential execution does not depend on the latencies and the predictor. -/
theorem inOrderStep_timing (h : SameButTiming c d) : inOrderStep d = inOrderStep c := by
  rw [h]
  rfl

theorem inOrderRun_timing (h : SameButTiming c d) (n : Nat) : inOrderRun d n = inOrderRun c n := by
  induction n with
  | zero => rfl
  | succ n ih =>
    funext q
    rw [inOrderRun, inOrderRun, inOrderStep_timing h, ih]

theorem ClockFree.timing (clock : ClockFree c) (h : SameButTiming c d) : ClockFree d := by
  intro s k hs
  have dispatcher : s.cfg.dispatcher = c.dispatcher := by rw [hs, h]
  have same (v : State) (hv : v.cfg = s.cfg) : dispatch { v with cfg := c } = dispatch v := by
    rw [dispatch, dispatch, hv, dispatcher]
  rw [← same s rfl, ← same { s with cycle := k } rfl]
  exact clock { s with cfg := c } k rfl

/-- Of two first parts of one sequential execution, one is the first part of the other. -/
theorem inOrderRun_first_part {u v : InOrder} (hes : inOrderRun c es.length q = some (es, u))
    (hfs : inOrderRun c fs.length q = some (fs, v)) (hle : es.length ≤ fs.length) : es <+: fs := by
  obtain ⟨m, hm⟩ := Nat.exists_eq_add_of_le hle
  rw [hm, inOrderRun_add c _ _ q u es hes] at hfs
  obtain ⟨r, _, hr⟩ := Option.map_eq_some_iff.1 hfs
  exact ⟨r.1, congrArg Prod.fst hr⟩

end

/-- Settles O59: every run stands for a stretch of sequential execution, and two runs from one start for two stretches of
the same. -/
theorem commitsAreSequential : Obligations.CommitsAreSequential := by
  intro cfg entry regs mem n s hwf hmem clock free hreach
  have sequential {c : Config} {k : Nat} {u : State} (hc : c.wf) (clock : ClockFree c)
      (free : HazardFreeRun c entry regs mem k) (hreach : Reaches c entry regs mem k u) :
      ∃ q, Sequential c ⟨regs.set 0 0, entry, mem⟩ (commitTrace k (State.launch c entry regs mem)) u q :=
    Faithful.run k (.launch c entry regs hmem) (launch_onDuty c entry regs mem) hc clock rfl free hreach
  obtain ⟨q, run⟩ := sequential hwf clock free hreach
  refine ⟨⟨q, run.run, run.regs, run.mem, run.exits⟩, fun other m u hother same free' hreach' => ?_⟩
  obtain ⟨q', run'⟩ := sequential hother (clock.timing same) free' hreach'
  have both := run'.run
  rw [inOrderRun_timing same] at both
  exact (Nat.le_total _ _).imp (inOrderRun_first_part both run.run) (inOrderRun_first_part run.run both)

end Sys2Proof.Machine
end
